-- ==== Sys2Proof/Word.lean ====
section
/-! DEFINITION. The plainest types of `ENC`: its one data width, a register index, and the tokens of a request.
Sources: spec/00_scope.md R6, R9; spec/30_encoding.md R60; spec/48_dispatcher.md R250. -/

namespace Sys2Proof

/-- An instruction word: exactly 32 bits, by type (R60). Bit 0 is the least significant bit (R9). -/
abbrev Word := BitVec 32

/-- A register index 0..31, the 5-bit value packed into a register slot (R24, R73). -/
abbrev RegIdx := BitVec 5

/-- One token of a source line, a string (R250). -/
abbrev Token := String

/-- One request: the token list of one source line, the mnemonic first (R79, R250). -/
abbrev Request := List Token

end Sys2Proof
end

