-- ==== Sys2Proof/Syntax.lean ====
section
/-! DEFINITION. The vocabulary of requests: resolved operands, the 45 instructions of spec/opcode_table.json, the steps of
an expansion, and the outcomes of an operation.
Sources: spec/00_scope.md R13 and its glossary; spec/30_encoding.md R79; spec/40_table_and_resolver.md section 2;
spec/47_pseudo.md R220; spec/60_exceptions.md R270. -/

namespace Sys2Proof

/-- What the resolver makes of a register token: a register index or a displacement (spec/40 section 2,
`Resolved = Reg(i) | Disp(n)`). The bound `n <= DISP_MAX` is a check of WellFormed. -/
inductive Resolved where
  | reg (i : RegIdx)
  | disp (n : Nat)
  deriving DecidableEq, Repr

/-- One operand read from a request: a resolved register token or an integer token (R254). -/
inductive Operand where
  | reg (r : Resolved)
  | int (v : Int)
  deriving DecidableEq, Repr

/-- What stands in an operand position of a request shape (R253). -/
inductive OperandKind where
  | reg
  | int
  deriving DecidableEq, Repr

/-- The operands of one real instruction, in the canonical order of its format (R79). -/
inductive Args where
  | regReg (rd rs1 rs2 : Resolved)
  | immediate (rd rs1 : Resolved) (imm : Int)
  | store (rs2 rs1 : Resolved) (imm : Int)
  | branch (rs1 rs2 : Resolved) (off : Int)
  | upper (rd : Resolved) (u : Int)
  | jump (rd : Resolved) (off : Int)
  deriving DecidableEq, Repr

/-- One step: a real mnemonic with its full operand list (R220). A real request is one step, a pseudo-instruction expands
to one or two. -/
structure RealStep where
  mn : Token
  args : Args
  deriving DecidableEq, Repr

/-- The eleven pseudo-instructions (R33), told apart from their spellings because one spelling is a parameter. -/
inductive PseudoOp where
  | li | mv | nop | not | neg | la | j | jlink | ret | bgt | ble
  deriving DecidableEq, Repr

/-- The five error kinds, a closed set (R270). -/
inductive ErrorKind where
  | unknownMnemonic
  | unknownRegister
  | wrongInstructionType
  | operandRangeError
  | structuralEncodingError
  deriving DecidableEq, Repr

/-- What a failure records: the offending token or value (R270, R278). -/
inductive Info where
  | token (t : Token)
  | value (v : Int)
  | nothing
  deriving DecidableEq, Repr

/-- A failure: its kind and its info (R13 `Err(kind, info)`). -/
structure Failure where
  kind : ErrorKind
  info : Info
  deriving DecidableEq, Repr

/-- The three outcomes of an operation of the spec (R13). -/
inductive Result (α : Type) where
  | ok (a : α)
  | err (f : Failure)
  | malformed
  deriving DecidableEq, Repr

/-- Every instruction of spec/opcode_table.json, its operands resolved, in request order (R79, R121 to R231). -/
inductive Instr where
  -- register-register (R121 to R130)
  | add (rd rs1 rs2 : Resolved)
  | sub (rd rs1 rs2 : Resolved)
  | sll (rd rs1 rs2 : Resolved)
  | slt (rd rs1 rs2 : Resolved)
  | sltu (rd rs1 rs2 : Resolved)
  | xor (rd rs1 rs2 : Resolved)
  | srl (rd rs1 rs2 : Resolved)
  | sra (rd rs1 rs2 : Resolved)
  | or (rd rs1 rs2 : Resolved)
  | and (rd rs1 rs2 : Resolved)
  -- immediate (R141 to R152)
  | addi (rd rs1 : Resolved) (imm : Int)
  | slti (rd rs1 : Resolved) (imm : Int)
  | sltiu (rd rs1 : Resolved) (imm : Int)
  | xori (rd rs1 : Resolved) (imm : Int)
  | ori (rd rs1 : Resolved) (imm : Int)
  | andi (rd rs1 : Resolved) (imm : Int)
  | lb (rd rs1 : Resolved) (imm : Int)
  | lh (rd rs1 : Resolved) (imm : Int)
  | lw (rd rs1 : Resolved) (imm : Int)
  | lbu (rd rs1 : Resolved) (imm : Int)
  | lhu (rd rs1 : Resolved) (imm : Int)
  | jalr (rd rs1 : Resolved) (imm : Int)
  -- store (R171 to R173)
  | sb (rs2 rs1 : Resolved) (imm : Int)
  | sh (rs2 rs1 : Resolved) (imm : Int)
  | sw (rs2 rs1 : Resolved) (imm : Int)
  -- branch (R181 to R186)
  | beq (rs1 rs2 : Resolved) (off : Int)
  | bne (rs1 rs2 : Resolved) (off : Int)
  | blt (rs1 rs2 : Resolved) (off : Int)
  | bge (rs1 rs2 : Resolved) (off : Int)
  | bltu (rs1 rs2 : Resolved) (off : Int)
  | bgeu (rs1 rs2 : Resolved) (off : Int)
  -- upper-immediate (R201, R202)
  | lui (rd : Resolved) (u : Int)
  | auipc (rd : Resolved) (u : Int)
  -- jump (R211)
  | jal (rd : Resolved) (off : Int)
  -- pseudo (R221 to R231)
  | li (rd : Resolved) (imm : Int)
  | mv (rd rs : Resolved)
  | nop
  | not (rd rs : Resolved)
  | neg (rd rs : Resolved)
  | la (rd : Resolved) (off : Int)
  | j (off : Int)
  | jlink (rd : Resolved) (off : Int)
  | ret
  | bgt (rs rt : Resolved) (off : Int)
  | ble (rs rt : Resolved) (off : Int)
  deriving DecidableEq, Repr

end Sys2Proof
end

