-- ==== Sys2Proof/Config.lean ====
section
/-! DEFINITION. What is fixed when an engine is built: the shapes of the three tables, the named parameters, the engine
that holds them, and the free values.
Sources: spec/00_scope.md R7, R8; spec/10_state.md R20 to R23; spec/93_implementation_defined.md U6, U11. -/

namespace Sys2Proof

/-- The seven categories: six formats and pseudo (R22). -/
inductive Category where
  | R | I | S | B | U | J | P
  deriving DecidableEq, Repr

/-- The per-mnemonic tuple (opcode, funct3, funct7), the last two absent where the format has no such field (R21). -/
structure FieldSpec where
  opcode : BitVec 7
  funct3 : Option (BitVec 3)
  funct7 : Option (BitVec 7)
  deriving DecidableEq, Repr

/-- A finite partial map, written as its list of rows (R21 to R23). A well-formed table has no key twice. -/
abbrev Table (κ α : Type) := List (κ × α)

/-- `J_ALIGN`, the required divisor of a jump offset: 2 or 4 (R8, R72). -/
inductive JAlign where
  | two
  | four
  deriving DecidableEq, Repr

/-- `LI_SPLIT`, how `li` splits a wide immediate (R8, R221). -/
inductive LiSplit where
  | compensated
  | plain
  deriving DecidableEq, Repr

/-- The byte orders the external serializer may use (R42). -/
inductive Endian where
  | little
  | big
  deriving DecidableEq, Repr, Inhabited

/-- The named parameters an engine reads (R8). -/
structure Params where
  /-- `ZERO_REG`: the index the expander uses for "the zero register". -/
  zeroReg : RegIdx
  /-- `RA_REG`: the index it uses for "the standard return-address register". -/
  raReg : RegIdx
  /-- `DEFAULT_LINK`: the link register of the plain unconditional jump. -/
  defaultLink : RegIdx
  /-- `DISP_MAX`: the largest displacement the resolver accepts. -/
  dispMax : Nat
  /-- `J_ALIGN`. -/
  jAlign : JAlign
  /-- `LI_SPLIT`. -/
  liSplit : LiSplit
  /-- `LI_WIDTH`: the width the `li` immediate is reduced to. -/
  liWidth : Nat
  /-- `SPELL_JLINK`: the source spelling of the second unconditional jump. -/
  spellJlink : Token
  deriving DecidableEq, Repr

/-- The one immutable configuration object an engine is: its three tables and its named parameters (R20, R302). -/
structure Engine where
  /-- `OPTAB`: mnemonic to FieldSpec (R21). -/
  optab : Table Token FieldSpec
  /-- `CAT`: mnemonic to category (R22). -/
  cat : Table Token Category
  /-- `REGTAB`: register name to index (R23). -/
  regtab : Table Token RegIdx
  params : Params
  deriving DecidableEq, Repr

/-- FREE VALUE (log entry 16): the funct3 bits of a word whose FieldSpec lacks the funct3 its format needs. The spec leaves
them "any value in the bits concerned" (U6); R258 makes them a function of the tables and the request. -/
opaque Config.freeFunct3 : Engine → RealStep → BitVec 3

/-- FREE VALUE (log entry 16): the funct7 bits of a word whose FieldSpec lacks the funct7 its format needs (U6). -/
opaque Config.freeFunct7 : Engine → RealStep → BitVec 7

/-- FREE VALUE (log entry 23): `SER_ENDIAN`, the byte order of the external serializer, left OPEN (R8, R42). No encoder
reads it. -/
opaque Config.serEndian : Endian

end Sys2Proof
end

