-- ==== Sys2Proof/Machine/Fields.lean ====
section
/-! DEFINITION. The integer notation of the spec, the six bit layouts, and the fields read back out of a word.
Sources: spec/00_scope.md R9, R11; spec/30_encoding.md R61 to R68, R70 to R72, R75. -/

namespace Sys2Proof.Machine

/-! ### Integers (R11) -/

/-- `v << n = v * 2^n` (R11). -/
def shl (v : Int) (n : Nat) : Int := v * 2 ^ n

/-- `v >> n = floor(v / 2^n)`: it rounds toward minus infinity (R11). -/
def shr (v : Int) (n : Nat) : Int := v / 2 ^ n

/-- `v[hi:lo] = (v >> lo) mod 2^(hi-lo+1)` (R11). -/
def slice (v : Int) (hi lo : Nat) : Int := shr v lo % 2 ^ (hi - lo + 1)

/-- `trunc12(v) = v - ((v >> 12) << 12)`, the required truncation law (R11, R68). -/
def trunc12 (v : Int) : Int := v - shl (shr v 12) 12

/-- `sext_N(v)`: the low `N` bits of `v` read as a two's-complement number (R11). -/
def sext (n : Nat) (v : Int) : Int :=
  if v % 2 ^ n ≥ 2 ^ (n - 1) then v % 2 ^ n - 2 ^ n else v % 2 ^ n

/-- `zext_N(v) = v mod 2^N` (R11). -/
def zext (n : Nat) (v : Int) : Int := v % 2 ^ n

/-! ### Immediate and offset fields: the operand cut to its field's width, after its range check -/

/-- The 12-bit field of formats I and S (R68). -/
def immField (imm : Int) : BitVec 12 := BitVec.ofInt 12 (trunc12 imm)

/-- The 13-bit field of format B, `off mod 8192` (R70). -/
def branchField (off : Int) : BitVec 13 := BitVec.ofInt 13 (off % 8192)

/-- The 20-bit field of format U, `u mod 2^20` (R71). -/
def upperField (u : Int) : BitVec 20 := BitVec.ofInt 20 (u % 1048576)

/-- The 21-bit field of format J, `off mod 2^21` (R72). -/
def jumpField (off : Int) : BitVec 21 := BitVec.ofInt 21 (off % 2097152)

/-! ### The six layouts, most significant group first -/

/-- Format R (R62). -/
def packR (f7 : BitVec 7) (s2 s1 : RegIdx) (f3 : BitVec 3) (d : RegIdx) (op : BitVec 7) : Word :=
  f7 ++ s2 ++ s1 ++ f3 ++ d ++ op

/-- Format I (R63). -/
def packI (f : BitVec 12) (s1 : RegIdx) (f3 : BitVec 3) (d : RegIdx) (op : BitVec 7) : Word :=
  f ++ s1 ++ f3 ++ d ++ op

/-- Format S (R64): the immediate split around the register slots. -/
def packS (f : BitVec 12) (s2 s1 : RegIdx) (f3 : BitVec 3) (op : BitVec 7) : Word :=
  f.extractLsb' 5 7 ++ s2 ++ s1 ++ f3 ++ f.extractLsb' 0 5 ++ op

/-- Format B (R65): bit 0 of the offset is not stored. -/
def packB (b : BitVec 13) (s2 s1 : RegIdx) (f3 : BitVec 3) (op : BitVec 7) : Word :=
  b.extractLsb' 12 1 ++ b.extractLsb' 5 6 ++ s2 ++ s1 ++ f3 ++ b.extractLsb' 1 4 ++ b.extractLsb' 11 1 ++ op

/-- Format U (R66). -/
def packU (u : BitVec 20) (d : RegIdx) (op : BitVec 7) : Word :=
  u ++ d ++ op

/-- Format J (R67): bit 0 of the offset is not stored. -/
def packJ (j : BitVec 21) (d : RegIdx) (op : BitVec 7) : Word :=
  j.extractLsb' 20 1 ++ j.extractLsb' 1 10 ++ j.extractLsb' 11 1 ++ j.extractLsb' 12 8 ++ d ++ op

/-! ### Reading a word back (R61, R75) -/

/-- `w[6:0]` (R61). -/
def opcodeOf (w : Word) : BitVec 7 := w.extractLsb' 0 7
/-- `w[11:7]` (R61). -/
def rdOf (w : Word) : RegIdx := w.extractLsb' 7 5
/-- `w[14:12]` (R61; conflict C1: not bits 19:17). -/
def funct3Of (w : Word) : BitVec 3 := w.extractLsb' 12 3
/-- `w[19:15]` (R61). -/
def rs1Of (w : Word) : RegIdx := w.extractLsb' 15 5
/-- `w[24:20]` (R61). -/
def rs2Of (w : Word) : RegIdx := w.extractLsb' 20 5
/-- `w[31:25]` (R61). -/
def funct7Of (w : Word) : BitVec 7 := w.extractLsb' 25 7

/-- Format I: `sext_12(w[31:20])` (R75). -/
def immIOf (w : Word) : Int := (w.extractLsb' 20 12).toInt

/-- Format S: `sext_12(w[31:25] ++ w[11:7])` (R75). -/
def immSOf (w : Word) : Int := (w.extractLsb' 25 7 ++ w.extractLsb' 7 5).toInt

/-- Format B: `sext_13(w[31] ++ w[7] ++ w[30:25] ++ w[11:8] ++ 0)` (R75). -/
def offBOf (w : Word) : Int :=
  (w.extractLsb' 31 1 ++ w.extractLsb' 7 1 ++ w.extractLsb' 25 6 ++ w.extractLsb' 8 4 ++ 0#1).toInt

/-- Format U: `w[31:12]`, an unsigned number (R75). -/
def upperOf (w : Word) : Int := (w.extractLsb' 12 20).toNat

/-- Format J: `sext_21(w[31] ++ w[19:12] ++ w[20] ++ w[30:21] ++ 0)` (R75). -/
def offJOf (w : Word) : Int :=
  (w.extractLsb' 31 1 ++ w.extractLsb' 12 8 ++ w.extractLsb' 20 1 ++ w.extractLsb' 21 10 ++ 0#1).toInt

end Sys2Proof.Machine
end

