-- ==== Sys2Proof/Machine/Tables.lean ====
section
/-! DEFINITION. The Opcode/Field Table (ASM 4.1): the table reads, the default contents of the three tables, the record
schema, and what makes a configuration well formed.
Sources: spec/10_state.md R21 to R23, R31 to R34; spec/00_scope.md R7, R8; spec/40_table_and_resolver.md R100, R101. -/

namespace Sys2Proof

/-- Read a table at a key; an absent key is no fault of the table (R41). -/
def Table.get? {κ α : Type} [DecidableEq κ] : Table κ α → κ → Option α
  | [], _ => none
  | (k, v) :: rest, x => if k = x then some v else Table.get? rest x

/-- Sequence two operations: the first failure ends the whole request (R12 `raise`). -/
def Result.bind {α β : Type} (r : Result α) (k : α → Result β) : Result β :=
  match r with
  | .ok a => k a
  | .err f => .err f
  | .malformed => .malformed

namespace Machine

/-! ### Table lookups -/

/-- `raise <ErrorKind>(info)` (R12). -/
def raise {α : Type} (kind : ErrorKind) (info : Info) : Result α := .err ⟨kind, info⟩

/-- `lookup(mn)`: the FieldSpec of a mnemonic, else `UnknownMnemonic` (R100). -/
def lookup (e : Engine) (mn : Token) : Result FieldSpec :=
  match e.optab.get? mn with
  | some fs => .ok fs
  | none => raise .unknownMnemonic (.token mn)

/-- `classify(mn)`: the category of a mnemonic, by exact string equality, else `UnknownMnemonic` (R101). -/
def classify (e : Engine) (mn : Token) : Result Category :=
  match e.cat.get? mn with
  | some c => .ok c
  | none => raise .unknownMnemonic (.token mn)

/-! ### Default contents (R31 to R33) -/

/-- The default `OPTAB` (R31). -/
def defaultOptab : Table Token FieldSpec :=
  [("add",   ⟨0b0110011#7, some 0b000#3, some 0b0000000#7⟩),
   ("sub",   ⟨0b0110011#7, some 0b000#3, some 0b0100000#7⟩),
   ("sll",   ⟨0b0110011#7, some 0b001#3, some 0b0000000#7⟩),
   ("slt",   ⟨0b0110011#7, some 0b010#3, some 0b0000000#7⟩),
   ("sltu",  ⟨0b0110011#7, some 0b011#3, some 0b0000000#7⟩),
   ("xor",   ⟨0b0110011#7, some 0b100#3, some 0b0000000#7⟩),
   ("srl",   ⟨0b0110011#7, some 0b101#3, some 0b0000000#7⟩),
   ("sra",   ⟨0b0110011#7, some 0b101#3, some 0b0100000#7⟩),
   ("or",    ⟨0b0110011#7, some 0b110#3, some 0b0000000#7⟩),
   ("and",   ⟨0b0110011#7, some 0b111#3, some 0b0000000#7⟩),
   ("addi",  ⟨0b0010011#7, some 0b000#3, none⟩),
   ("slti",  ⟨0b0010011#7, some 0b010#3, none⟩),
   ("sltiu", ⟨0b0010011#7, some 0b011#3, none⟩),
   ("xori",  ⟨0b0010011#7, some 0b100#3, none⟩),
   ("ori",   ⟨0b0010011#7, some 0b110#3, none⟩),
   ("andi",  ⟨0b0010011#7, some 0b111#3, none⟩),
   ("lb",    ⟨0b0000011#7, some 0b000#3, none⟩),
   ("lh",    ⟨0b0000011#7, some 0b001#3, none⟩),
   ("lw",    ⟨0b0000011#7, some 0b010#3, none⟩),
   ("lbu",   ⟨0b0000011#7, some 0b100#3, none⟩),
   ("lhu",   ⟨0b0000011#7, some 0b101#3, none⟩),
   ("jalr",  ⟨0b1100111#7, some 0b000#3, none⟩),
   ("sb",    ⟨0b0100011#7, some 0b000#3, none⟩),
   ("sh",    ⟨0b0100011#7, some 0b001#3, none⟩),
   ("sw",    ⟨0b0100011#7, some 0b010#3, none⟩),
   ("beq",   ⟨0b1100011#7, some 0b000#3, none⟩),
   ("bne",   ⟨0b1100011#7, some 0b001#3, none⟩),
   ("blt",   ⟨0b1100011#7, some 0b100#3, none⟩),
   ("bge",   ⟨0b1100011#7, some 0b101#3, none⟩),
   ("bltu",  ⟨0b1100011#7, some 0b110#3, none⟩),
   ("bgeu",  ⟨0b1100011#7, some 0b111#3, none⟩),
   ("lui",   ⟨0b0110111#7, none, none⟩),
   ("auipc", ⟨0b0010111#7, none, none⟩),
   ("jal",   ⟨0b1101111#7, none, none⟩)]

/-- The default `CAT` of the real mnemonics (R31). -/
def defaultRealCat : Table Token Category :=
  [("add", .R), ("sub", .R), ("sll", .R), ("slt", .R), ("sltu", .R), ("xor", .R), ("srl", .R), ("sra", .R),
   ("or", .R), ("and", .R),
   ("addi", .I), ("slti", .I), ("sltiu", .I), ("xori", .I), ("ori", .I), ("andi", .I),
   ("lb", .I), ("lh", .I), ("lw", .I), ("lbu", .I), ("lhu", .I), ("jalr", .I),
   ("sb", .S), ("sh", .S), ("sw", .S),
   ("beq", .B), ("bne", .B), ("blt", .B), ("bge", .B), ("bltu", .B), ("bgeu", .B),
   ("lui", .U), ("auipc", .U), ("jal", .J)]

/-- The default `CAT` of the eleven pseudo-mnemonics; the key of the second unconditional jump is the parameter
`SPELL_JLINK` (R33). -/
def defaultPseudoCat (spellJlink : Token) : Table Token Category :=
  [("li", .P), ("mv", .P), ("nop", .P), ("not", .P), ("neg", .P), ("la", .P), ("j", .P), (spellJlink, .P), ("ret", .P),
   ("bgt", .P), ("ble", .P)]

/-- The default `CAT` (R31, R33), at a spelling of the second unconditional jump. -/
def defaultCat (spellJlink : Token) : Table Token Category := defaultRealCat ++ defaultPseudoCat spellJlink

/-- The 32 keys `x0` .. `x31` of the default `REGTAB` (R32). -/
def defaultXNames : Table Token RegIdx :=
  [("x0", 0), ("x1", 1), ("x2", 2), ("x3", 3), ("x4", 4), ("x5", 5), ("x6", 6), ("x7", 7),
   ("x8", 8), ("x9", 9), ("x10", 10), ("x11", 11), ("x12", 12), ("x13", 13), ("x14", 14), ("x15", 15),
   ("x16", 16), ("x17", 17), ("x18", 18), ("x19", 19), ("x20", 20), ("x21", 21), ("x22", 22), ("x23", 23),
   ("x24", 24), ("x25", 25), ("x26", 26), ("x27", 27), ("x28", 28), ("x29", 29), ("x30", 30), ("x31", 31)]

/-- The 33 aliases of the default `REGTAB`; index 8 has two (R32). -/
def defaultAliases : Table Token RegIdx :=
  [("zero", 0), ("ra", 1), ("sp", 2), ("gp", 3), ("tp", 4), ("t0", 5), ("t1", 6), ("t2", 7),
   ("s0", 8), ("fp", 8), ("s1", 9), ("a0", 10), ("a1", 11), ("a2", 12), ("a3", 13), ("a4", 14), ("a5", 15),
   ("a6", 16), ("a7", 17), ("s2", 18), ("s3", 19), ("s4", 20), ("s5", 21), ("s6", 22), ("s7", 23),
   ("s8", 24), ("s9", 25), ("s10", 26), ("s11", 27), ("t3", 28), ("t4", 29), ("t5", 30), ("t6", 31)]

/-- The default `REGTAB`, 65 keys (R32). -/
def defaultRegtab : Table Token RegIdx := defaultXNames ++ defaultAliases

/-- The default parameters (R8). -/
def defaultParams : Params where
  zeroReg := 0
  raReg := 1
  defaultLink := 0
  dispMax := 8388607
  jAlign := .two
  liSplit := .compensated
  liWidth := 32
  spellJlink := "jlink"

/-- The engine of the default tables under the given parameters. -/
def defaultEngineUnder (p : Params) : Engine where
  optab := defaultOptab
  cat := defaultCat p.spellJlink
  regtab := defaultRegtab
  params := p

/-- The engine of the default configuration (R301). -/
def defaultEngine : Engine := defaultEngineUnder defaultParams

/-- The spellings of the eleven pseudo-mnemonics; that of the second unconditional jump is a parameter (R33). -/
def pseudoSpellings (p : Params) : Table Token PseudoOp :=
  [("li", .li), ("mv", .mv), ("nop", .nop), ("not", .not), ("neg", .neg), ("la", .la), ("j", .j), ("ret", .ret),
   ("bgt", .bgt), ("ble", .ble), (p.spellJlink, .jlink)]

/-! ### The record schema of the configuration surface (R7, R21, R300) -/

/-- A bit string of exactly `n` characters `0` and `1`, most significant first, as an `n`-bit value. -/
def bitString? (n : Nat) (t : Token) : Option (BitVec n) :=
  if t.toList.length = n ∧ t.toList.all (fun c => c == '0' || c == '1') = true then
    some (BitVec.ofNat n (t.toList.foldl (fun v c => 2 * v + (if c = '1' then 1 else 0)) 0))
  else none

/-- The FieldSpec of one opcode/funct record: "ordered fields: opcode, funct3, funct7", each of its width (R7, R21). DESIGN
CHOICE (log entry 33): an absent funct7, or an absent funct3 and funct7, is a record that ends earlier; an empty field is
rejected. -/
def fieldSpecOfRecord : List Token → Option FieldSpec
  | [op] => (bitString? 7 op).map fun o => ⟨o, none, none⟩
  | [op, f3] => (bitString? 7 op).bind fun o => (bitString? 3 f3).map fun a => ⟨o, some a, none⟩
  | [op, f3, f7] =>
    (bitString? 7 op).bind fun o => (bitString? 3 f3).bind fun a => (bitString? 7 f7).map fun b => ⟨o, some a, some b⟩
  | _ => none

/-- The index of one register-name record (R7, R23). DESIGN CHOICE (log entry 33): it is exactly one field, of exactly five
characters `0` and `1`. -/
def regIdxOfRecord : List Token → Option RegIdx
  | [ix] => bitString? 5 ix
  | _ => none

/-! ### Well-formed configuration (R34) -/

/-- No key of a table stands twice: it is a map (R21 to R23). -/
def keysDistinct {α : Type} (t : Table Token α) : Bool := decide (t.map Prod.fst).Nodup

/-- A FieldSpec has exactly the fields its format needs (R21, R34 b). -/
def fieldsFit (c : Category) (fs : FieldSpec) : Bool :=
  match c with
  | .R => fs.funct3.isSome && fs.funct7.isSome
  | .I | .S | .B => fs.funct3.isSome && fs.funct7.isNone
  | .U | .J => fs.funct3.isNone && fs.funct7.isNone
  | .P => false

/-- R34 (b) for one row of `CAT`. -/
def rowFits (optab : Table Token FieldSpec) (mn : Token) (c : Category) : Bool :=
  match c, optab.get? mn with
  | .P, o => o.isNone
  | _, some fs => fieldsFit c fs
  | _, none => false

/-- The nine real mnemonics the expander emits, with their categories (R34 d). -/
def emitted : Table Token Category :=
  [("lui", .U), ("addi", .I), ("xori", .I), ("sub", .R), ("auipc", .U), ("jal", .J), ("jalr", .I), ("blt", .B), ("bge", .B)]

/-- R34 on the three tables: (a) and (c) hold by type, (b) and (d) are checked; and each table is a map (log entry 28). -/
def engineWf (e : Engine) : Bool :=
  keysDistinct e.optab && keysDistinct e.cat && keysDistinct e.regtab
    && e.cat.all (fun row => rowFits e.optab row.1 row.2)
    && emitted.all (fun row => decide (e.cat.get? row.1 = some row.2))

end Machine

end Sys2Proof
end

