-- ==== Sys2Proof/Machine/Operands.lean ====
section
/-! DEFINITION. The Register Resolver (ASM 4.2) and every operand form: integer tokens, bracketed literals, register names,
numeric suffixes, and the source and destination slots.
Sources: spec/30_encoding.md R73, R79, R80; spec/40_table_and_resolver.md R102 to R107; spec/48_dispatcher.md R253, R254. -/

namespace Sys2Proof.Machine

/-! ### Tokens -/

/-- The value of one or more decimal digits (R80, R102). -/
def digitsValue? (cs : List Char) : Option Nat :=
  if cs ≠ [] ∧ cs.all Char.isDigit = true then some (Nat.ofDigitChars 10 cs 0) else none

/-- An integer token: an optional `-`, then one or more decimal digits (R80). -/
def integer? (t : Token) : Option Int :=
  match t.toList with
  | [] => none
  | c :: rest =>
    if c = '-' then (digitsValue? rest).map fun n => -(n : Int)
    else (digitsValue? (c :: rest)).map fun n => (n : Int)

/-- What stands between the brackets of a token whose first character is `[` and whose last is `]` (R102). -/
def bracketBody? (t : Token) : Option (List Char) :=
  match t.toList with
  | [] => none
  | c :: rest => if c = '[' ∧ rest.getLast? = some ']' then some rest.dropLast else none

/-- The value of a bracketed literal: `[`, one or more decimal digits, `]` (R102). -/
def bracketed? (t : Token) : Option Nat := (bracketBody? t).bind digitsValue?

/-- The numeric suffix: `x` and one or two decimal digits of value at most 31 (R104). -/
def xNumber? (t : Token) : Option RegIdx :=
  match t.toList with
  | [] => none
  | c :: ds =>
    if c = 'x' ∧ ds.length ≤ 2 then
      match digitsValue? ds with
      | some n => if n ≤ 31 then some (BitVec.ofNat 5 n) else none
      | none => none
    else none

/-! ### The resolver -/

/-- The table lookup, its numeric fallback, and `UnknownRegister`, for a token that is no bracketed literal (R103 to R105,
R272). -/
def resolveName (e : Engine) (t : Token) : Result Resolved :=
  match e.regtab.get? t with
  | some i => .ok (.reg i)
  | none =>
    match xNumber? t with
    | some i => .ok (.reg i)
    | none => raise .unknownRegister (.token t)

/-- `resolve(token)`, the three cases in order (R105). An ill-formed bracketed literal is no case of its own here: it is the
shape check that makes a request with one malformed (R102, R253). -/
def resolve (e : Engine) (t : Token) : Result Resolved :=
  match bracketed? t with
  | some n => if n ≤ e.params.dispMax then .ok (.disp n) else raise .operandRangeError (.token t)
  | none => resolveName e t

/-! ### From a resolved operand to a 5-bit field -/

/-- `SrcField(r)`: a register's index, or a displacement of at most 31 (R106). -/
def srcField : Resolved → Result RegIdx
  | .reg i => .ok i
  | .disp n => if n ≤ 31 then .ok (BitVec.ofNat 5 n) else raise .operandRangeError (.value n)

/-- `DstField(r)`: a register's index; a displacement is never a destination (R107). -/
def dstField : Resolved → Result RegIdx
  | .reg i => .ok i
  | .disp n => raise .operandRangeError (.value n)

/-! ### Request shapes -/

/-- The shape of the six formats (R79, R253). -/
def formatShape : Category → List OperandKind
  | .R => [.reg, .reg, .reg]
  | .I => [.reg, .reg, .int]
  | .S => [.reg, .reg, .int]
  | .B => [.reg, .reg, .int]
  | .U => [.reg, .int]
  | .J => [.reg, .int]
  | .P => []

/-- The shape of each pseudo-instruction (R253). -/
def pseudoShape : PseudoOp → List OperandKind
  | .li => [.reg, .int]
  | .mv => [.reg, .reg]
  | .nop => []
  | .not => [.reg, .reg]
  | .neg => [.reg, .reg]
  | .la => [.reg, .int]
  | .j => [.int]
  | .jlink => [.reg, .int]
  | .ret => []
  | .bgt => [.reg, .reg, .int]
  | .ble => [.reg, .reg, .int]

/-- One token fits its position: an integer token in an `int` position, and in a `reg` position any token other than an
ill-formed bracketed literal (R253). -/
def tokenFits : OperandKind → Token → Bool
  | .int, t => (integer? t).isSome
  | .reg, t =>
    match bracketBody? t with
    | some body => (digitsValue? body).isSome
    | none => true

/-- The shape check: the same number of tokens, each fitting its position (R253). -/
def shapeOk : List OperandKind → List Token → Bool
  | [], [] => true
  | k :: ks, t :: ts => tokenFits k t && shapeOk ks ts
  | _, _ => false

/-- One operand token read at its position (R254). -/
def readOperand (e : Engine) : OperandKind → Token → Result Operand
  | .reg, t => (resolve e t).bind fun r => .ok (.reg r)
  | .int, t =>
    match integer? t with
    | some v => .ok (.int v)
    | none => .malformed

/-- The operand tokens read left to right; the first that fails ends the request (R254). -/
def readOperands (e : Engine) : List OperandKind → List Token → Result (List Operand)
  | k :: ks, t :: ts =>
    (readOperand e k t).bind fun o => (readOperands e ks ts).bind fun os => .ok (o :: os)
  | _, _ => .ok []

/-- Operands of a format in request order (R79, R255). -/
def argsOf : Category → List Operand → Option Args
  | .R, [.reg a, .reg b, .reg c] => some (.regReg a b c)
  | .I, [.reg a, .reg b, .int v] => some (.immediate a b v)
  | .S, [.reg a, .reg b, .int v] => some (.store a b v)
  | .B, [.reg a, .reg b, .int v] => some (.branch a b v)
  | .U, [.reg a, .int v] => some (.upper a v)
  | .J, [.reg a, .int v] => some (.jump a v)
  | _, _ => none

end Sys2Proof.Machine
end

