-- ==== Sys2Proof/Machine/Flags.lean ====
section
/-! DEFINITION. The conditions an operation computes on its operands. The block has no flag and no status bit (spec/10_state.md R26):
what takes their place is the range check of each integer operand, which decides between a word and `OperandRangeError`.
Sources: spec/30_encoding.md R69 to R72; spec/47_pseudo.md R221. -/

namespace Sys2Proof.Machine

/-- The legal range of a 12-bit immediate, -2048..2047 (R69). -/
def imm12Ok (imm : Int) : Bool := decide (-2048 ≤ imm) && decide (imm ≤ 2047)

/-- A legal branch offset: even, -4096..4094 (R70). -/
def branchOk (off : Int) : Bool := decide (-4096 ≤ off) && decide (off ≤ 4094) && decide (off % 2 = 0)

/-- A legal upper-immediate operand, -2^19..2^20-1 (R71). -/
def upperOk (u : Int) : Bool := decide (-524288 ≤ u) && decide (u ≤ 1048575)

/-- The divisor a `J_ALIGN` stands for (R72). -/
def jAlignBytes : JAlign → Int
  | .two => 2
  | .four => 4

/-- A legal jump offset: a multiple of `J_ALIGN`, -2^20..2^20-2 (R72). -/
def jumpOk (a : JAlign) (off : Int) : Bool :=
  decide (-1048576 ≤ off) && decide (off ≤ 1048574) && decide (off % jAlignBytes a = 0)

/-- The range of a `li` immediate, -2^(LI_WIDTH-1)..2^LI_WIDTH-1 (R221; U15: the bound follows `LI_WIDTH`). -/
def liRangeOk (width : Nat) (imm : Int) : Bool :=
  decide (-(2 ^ (width - 1)) ≤ imm) && decide (imm ≤ 2 ^ width - 1)

end Sys2Proof.Machine
end

