-- ==== Sys2Proof/WellFormed.lean ====
section
/-! DEFINITION. Checks on an instruction as syntax. `Instr.resolved`: its operands are ones the resolver can give.
`Instr.encodable`: every slot and every integer operand is one its encoding admits, so that it has words.
Sources: spec/30_encoding.md R69 to R73; spec/40_table_and_resolver.md R102, R106, R107; spec/47_pseudo.md R221 to R231;
spec/60_exceptions.md R274. -/

namespace Sys2Proof

/-- A displacement is at most `DISP_MAX` (R102). -/
def Resolved.inBounds (p : Params) : Resolved → Bool
  | .reg _ => true
  | .disp n => decide (n ≤ p.dispMax)

/-- A destination slot takes a register (R107). -/
def Resolved.dstOk : Resolved → Bool
  | .reg _ => true
  | .disp _ => false

/-- A source slot takes a register, or a displacement of at most 31 (R106). -/
def Resolved.srcOk : Resolved → Bool
  | .reg _ => true
  | .disp n => decide (n ≤ 31)

/-- The register operands of an instruction, in request order. -/
def Instr.registers : Instr → List Resolved
  | .add a b c | .sub a b c | .sll a b c | .slt a b c | .sltu a b c => [a, b, c]
  | .xor a b c | .srl a b c | .sra a b c | .or a b c | .and a b c => [a, b, c]
  | .addi a b _ | .slti a b _ | .sltiu a b _ | .xori a b _ | .ori a b _ | .andi a b _ => [a, b]
  | .lb a b _ | .lh a b _ | .lw a b _ | .lbu a b _ | .lhu a b _ | .jalr a b _ => [a, b]
  | .sb a b _ | .sh a b _ | .sw a b _ => [a, b]
  | .beq a b _ | .bne a b _ | .blt a b _ | .bge a b _ | .bltu a b _ | .bgeu a b _ => [a, b]
  | .lui a _ | .auipc a _ | .jal a _ => [a]
  | .li a _ | .la a _ | .jlink a _ => [a]
  | .mv a b | .not a b | .neg a b => [a, b]
  | .bgt a b _ | .ble a b _ => [a, b]
  | .nop | .j _ | .ret => []

/-- Every register operand is one the resolver can give under these parameters (R102). -/
def Instr.resolved (p : Params) (i : Instr) : Bool := i.registers.all (Resolved.inBounds p)

/-- The integer operand of `li` has words: it is in range, and under the plain split its two parts fit (R221). -/
def liEncodable (p : Params) (imm : Int) : Bool :=
  Machine.imm12Ok imm ||
    (Machine.liRangeOk p.liWidth imm &&
      match p.liSplit with
      | .compensated => true
      | .plain =>
        Machine.upperOk (Machine.shr (imm % 2 ^ p.liWidth) 12) && Machine.imm12Ok (imm % 2 ^ p.liWidth % 4096))

/-- Every operand is one the instruction's encoding admits (R69 to R73, R106, R107; for a pseudo-instruction, its steps'). -/
def Instr.encodable (p : Params) : Instr → Bool
  | .add d a b | .sub d a b | .sll d a b | .slt d a b | .sltu d a b => d.dstOk && a.srcOk && b.srcOk
  | .xor d a b | .srl d a b | .sra d a b | .or d a b | .and d a b => d.dstOk && a.srcOk && b.srcOk
  | .addi d a v | .slti d a v | .sltiu d a v | .xori d a v | .ori d a v | .andi d a v =>
    d.dstOk && a.srcOk && Machine.imm12Ok v
  | .lb d a v | .lh d a v | .lw d a v | .lbu d a v | .lhu d a v | .jalr d a v => d.dstOk && a.srcOk && Machine.imm12Ok v
  | .sb b a v | .sh b a v | .sw b a v => b.srcOk && a.srcOk && Machine.imm12Ok v
  | .beq a b v | .bne a b v | .blt a b v | .bge a b v | .bltu a b v | .bgeu a b v =>
    a.srcOk && b.srcOk && Machine.branchOk v
  | .lui d u | .auipc d u => d.dstOk && Machine.upperOk u
  | .jal d v => d.dstOk && Machine.jumpOk p.jAlign v
  | .li d v => d.dstOk && liEncodable p v
  | .mv d a | .not d a | .neg d a => d.dstOk && a.srcOk
  | .nop | .ret => true
  | .la d u => d.dstOk && Machine.upperOk u
  | .j v => Machine.jumpOk p.jAlign v
  | .jlink d v => d.dstOk && Machine.jumpOk p.jAlign v
  | .bgt a b v | .ble a b v => a.srcOk && b.srcOk && Machine.branchOk v

end Sys2Proof
end

