-- ==== Sys2Proof/Decode.lean ====
section
/-! DEFINITION. The two decoders and, after each, its encoder. An instruction of this block is a REQUEST: `decodeRequest`
reads one (classification, shape check, operand resolution) and `spell` writes one. The rows of spec/opcode_table.json are
the 32-bit WORDS an instruction is encoded to: `decodeWord` reads one by the layouts of R61 to R67 and R75, and `encode`
gives an instruction's words straight from the table's bit patterns.
Sources: spec/30_encoding.md R61 to R76; spec/40_table_and_resolver.md R101 to R105; spec/48_dispatcher.md R251 to R256;
spec/opcode_table.json. -/

namespace Sys2Proof

open Machine

/-! ### Requests to instructions -/

/-- The register-register instructions by mnemonic (R121 to R130). -/
def regRegInstrs : Table Token (Resolved → Resolved → Resolved → Instr) :=
  [("add", .add), ("sub", .sub), ("sll", .sll), ("slt", .slt), ("sltu", .sltu), ("xor", .xor), ("srl", .srl),
   ("sra", .sra), ("or", .or), ("and", .and)]

/-- The immediate-format instructions by mnemonic (R141 to R152). -/
def immediateInstrs : Table Token (Resolved → Resolved → Int → Instr) :=
  [("addi", .addi), ("slti", .slti), ("sltiu", .sltiu), ("xori", .xori), ("ori", .ori), ("andi", .andi), ("lb", .lb),
   ("lh", .lh), ("lw", .lw), ("lbu", .lbu), ("lhu", .lhu), ("jalr", .jalr)]

/-- The stores by mnemonic (R171 to R173). -/
def storeInstrs : Table Token (Resolved → Resolved → Int → Instr) :=
  [("sb", .sb), ("sh", .sh), ("sw", .sw)]

/-- The branches by mnemonic (R181 to R186). -/
def branchInstrs : Table Token (Resolved → Resolved → Int → Instr) :=
  [("beq", .beq), ("bne", .bne), ("blt", .blt), ("bge", .bge), ("bltu", .bltu), ("bgeu", .bgeu)]

/-- The upper-immediate instructions by mnemonic (R201, R202). -/
def upperInstrs : Table Token (Resolved → Int → Instr) := [("lui", .lui), ("auipc", .auipc)]

/-- The jump by mnemonic (R211). -/
def jumpInstrs : Table Token (Resolved → Int → Instr) := [("jal", .jal)]

/-- The instruction a real step is; none for a mnemonic a configuration has added to the table (R77). -/
def instrOfStep (st : RealStep) : Option Instr :=
  match st.args with
  | .regReg a b c => (regRegInstrs.get? st.mn).map fun k => k a b c
  | .immediate a b v => (immediateInstrs.get? st.mn).map fun k => k a b v
  | .store a b v => (storeInstrs.get? st.mn).map fun k => k a b v
  | .branch a b v => (branchInstrs.get? st.mn).map fun k => k a b v
  | .upper a v => (upperInstrs.get? st.mn).map fun k => k a v
  | .jump a v => (jumpInstrs.get? st.mn).map fun k => k a v

/-- The instruction a pseudo-mnemonic is, on operands of its shape (R221 to R231). -/
def instrOfPseudo : PseudoOp → List Operand → Option Instr
  | .li, [.reg rd, .int imm] => some (.li rd imm)
  | .mv, [.reg rd, .reg rs] => some (.mv rd rs)
  | .nop, [] => some .nop
  | .not, [.reg rd, .reg rs] => some (.not rd rs)
  | .neg, [.reg rd, .reg rs] => some (.neg rd rs)
  | .la, [.reg rd, .int off] => some (.la rd off)
  | .j, [.int off] => some (.j off)
  | .jlink, [.reg rd, .int off] => some (.jlink rd off)
  | .ret, [] => some .ret
  | .bgt, [.reg rs, .reg rt, .int off] => some (.bgt rs rt off)
  | .ble, [.reg rs, .reg rt, .int off] => some (.ble rs rt off)
  | _, _ => none

/-- What a request asks for: nothing (the empty token list), one of the 45 instructions, or a real mnemonic that a
configuration has added to the tables, which only the encoder of its category knows (R77, R83). -/
inductive Decoded where
  | blank
  | instr (i : Instr)
  | configured (st : RealStep)
  deriving DecidableEq, Repr

/-- A real mnemonic with its operands. -/
def decodedReal (mn : Token) (c : Category) (ops : List Operand) : Result Decoded :=
  match argsOf c ops with
  | some a =>
    match instrOfStep ⟨mn, a⟩ with
    | some i => .ok (.instr i)
    | none => .ok (.configured ⟨mn, a⟩)
  | none => .malformed

/-- A pseudo-instruction with its operands. -/
def decodedPseudo (k : PseudoOp) (ops : List Operand) : Result Decoded :=
  match instrOfPseudo k ops with
  | some i => .ok (.instr i)
  | none => .malformed

/-- The shape check, then the operands left to right (R253, R254). -/
def checkedOperands (e : Engine) (shape : List OperandKind) (toks : List Token) : Result (List Operand) :=
  if shapeOk shape toks then readOperands e shape toks else .malformed

/-- The decoder of requests: classify, check the shape, resolve the operands (R251 to R254). A mnemonic of category `P` that is
none of the eleven has no request shape for its tokens to match (R253; log entry 15). Total: an unknown mnemonic, an
unknown register, a displacement out of bounds and a malformed request are each answered by name. -/
def decodeRequest (e : Engine) : Request → Result Decoded
  | [] => .ok .blank
  | mn :: toks =>
    (classify e mn).bind fun c =>
      match c with
      | .P =>
        match (pseudoSpellings e.params).get? mn with
        | some k => (checkedOperands e (pseudoShape k) toks).bind (decodedPseudo k)
        | none => .malformed
      | c => (checkedOperands e (formatShape c) toks).bind (decodedReal mn c)

/-! ### Instructions to requests -/

/-- A register index as a token: `x` and the index in decimal (R32, R104). -/
def regName (i : RegIdx) : Token := String.ofList ('x' :: Nat.toDigits 10 i.toNat)

/-- A resolved operand as a token: a register name or a bracketed literal (R102, R103). -/
def resolvedToken : Resolved → Token
  | .reg i => regName i
  | .disp n => String.ofList ('[' :: Nat.toDigits 10 n ++ [']'])

/-- An integer as a token: decimal digits, `-` before a negative one (R80). -/
def integerToken : Int → Token
  | .ofNat n => String.ofList (Nat.toDigits 10 n)
  | .negSucc n => String.ofList ('-' :: Nat.toDigits 10 (n + 1))

/-- The mnemonic of an instruction; the spelling of `jlink` is the parameter `SPELL_JLINK` (R31, R33). -/
def Instr.mnemonic (p : Params) : Instr → Token
  | .add _ _ _ => "add" | .sub _ _ _ => "sub" | .sll _ _ _ => "sll" | .slt _ _ _ => "slt" | .sltu _ _ _ => "sltu"
  | .xor _ _ _ => "xor" | .srl _ _ _ => "srl" | .sra _ _ _ => "sra" | .or _ _ _ => "or" | .and _ _ _ => "and"
  | .addi _ _ _ => "addi" | .slti _ _ _ => "slti" | .sltiu _ _ _ => "sltiu" | .xori _ _ _ => "xori"
  | .ori _ _ _ => "ori" | .andi _ _ _ => "andi" | .lb _ _ _ => "lb" | .lh _ _ _ => "lh" | .lw _ _ _ => "lw"
  | .lbu _ _ _ => "lbu" | .lhu _ _ _ => "lhu" | .jalr _ _ _ => "jalr"
  | .sb _ _ _ => "sb" | .sh _ _ _ => "sh" | .sw _ _ _ => "sw"
  | .beq _ _ _ => "beq" | .bne _ _ _ => "bne" | .blt _ _ _ => "blt" | .bge _ _ _ => "bge" | .bltu _ _ _ => "bltu"
  | .bgeu _ _ _ => "bgeu"
  | .lui _ _ => "lui" | .auipc _ _ => "auipc" | .jal _ _ => "jal"
  | .li _ _ => "li" | .mv _ _ => "mv" | .nop => "nop" | .not _ _ => "not" | .neg _ _ => "neg" | .la _ _ => "la"
  | .j _ => "j" | .jlink _ _ => p.spellJlink | .ret => "ret" | .bgt _ _ _ => "bgt" | .ble _ _ _ => "ble"

/-- The operand tokens of an instruction, in request order (R79). -/
def Instr.operandTokens : Instr → List Token
  | .add a b c | .sub a b c | .sll a b c | .slt a b c | .sltu a b c =>
    [resolvedToken a, resolvedToken b, resolvedToken c]
  | .xor a b c | .srl a b c | .sra a b c | .or a b c | .and a b c => [resolvedToken a, resolvedToken b, resolvedToken c]
  | .addi a b v | .slti a b v | .sltiu a b v | .xori a b v | .ori a b v | .andi a b v =>
    [resolvedToken a, resolvedToken b, integerToken v]
  | .lb a b v | .lh a b v | .lw a b v | .lbu a b v | .lhu a b v | .jalr a b v =>
    [resolvedToken a, resolvedToken b, integerToken v]
  | .sb a b v | .sh a b v | .sw a b v => [resolvedToken a, resolvedToken b, integerToken v]
  | .beq a b v | .bne a b v | .blt a b v | .bge a b v | .bltu a b v | .bgeu a b v =>
    [resolvedToken a, resolvedToken b, integerToken v]
  | .lui a v | .auipc a v | .jal a v => [resolvedToken a, integerToken v]
  | .li a v | .la a v | .jlink a v => [resolvedToken a, integerToken v]
  | .mv a b | .not a b | .neg a b => [resolvedToken a, resolvedToken b]
  | .nop | .ret => []
  | .j v => [integerToken v]
  | .bgt a b v | .ble a b v => [resolvedToken a, resolvedToken b, integerToken v]

/-- The request that asks for an instruction: its mnemonic, then its operands in canonical order (R79). -/
def spell (p : Params) (i : Instr) : Request := i.mnemonic p :: i.operandTokens

/-! ### Words to instructions (default tables) -/

/-- What a 32-bit word is, or why it is none of the table's: a reserved word is named by the field that has no row. -/
inductive WordReading where
  | instr (i : Instr)
  | unknownOpcode
  | unknownFunct3
  | unknownFunct7
  deriving DecidableEq, Repr

/-- The register-register rows by funct7 and funct3 (R121 to R130, opcode 0110011). -/
def regRegRows : Table (BitVec 7 × BitVec 3) (Resolved → Resolved → Resolved → Instr) :=
  [((0b0000000#7, 0b000#3), .add), ((0b0100000#7, 0b000#3), .sub), ((0b0000000#7, 0b001#3), .sll),
   ((0b0000000#7, 0b010#3), .slt), ((0b0000000#7, 0b011#3), .sltu), ((0b0000000#7, 0b100#3), .xor),
   ((0b0000000#7, 0b101#3), .srl), ((0b0100000#7, 0b101#3), .sra), ((0b0000000#7, 0b110#3), .or),
   ((0b0000000#7, 0b111#3), .and)]

/-- The immediate arithmetic rows by funct3 (R141 to R146, opcode 0010011). -/
def immArithRows : Table (BitVec 3) (Resolved → Resolved → Int → Instr) :=
  [(0b000#3, .addi), (0b010#3, .slti), (0b011#3, .sltiu), (0b100#3, .xori), (0b110#3, .ori), (0b111#3, .andi)]

/-- The load rows by funct3 (R147 to R151, opcode 0000011). -/
def loadRows : Table (BitVec 3) (Resolved → Resolved → Int → Instr) :=
  [(0b000#3, .lb), (0b001#3, .lh), (0b010#3, .lw), (0b100#3, .lbu), (0b101#3, .lhu)]

/-- The `jalr` row (R152, opcode 1100111). -/
def jalrRows : Table (BitVec 3) (Resolved → Resolved → Int → Instr) := [(0b000#3, .jalr)]

/-- The store rows by funct3 (R171 to R173, opcode 0100011). -/
def storeRows : Table (BitVec 3) (Resolved → Resolved → Int → Instr) :=
  [(0b000#3, .sb), (0b001#3, .sh), (0b010#3, .sw)]

/-- The branch rows by funct3 (R181 to R186, opcode 1100011). -/
def branchRows : Table (BitVec 3) (Resolved → Resolved → Int → Instr) :=
  [(0b000#3, .beq), (0b001#3, .bne), (0b100#3, .blt), (0b101#3, .bge), (0b110#3, .bltu), (0b111#3, .bgeu)]

/-- A register-register word. -/
def readR (w : Word) : WordReading :=
  match regRegRows.get? (funct7Of w, funct3Of w) with
  | some k => .instr (k (.reg (rdOf w)) (.reg (rs1Of w)) (.reg (rs2Of w)))
  | none => .unknownFunct7

/-- An immediate-format word of the given rows. -/
def readI (rows : Table (BitVec 3) (Resolved → Resolved → Int → Instr)) (w : Word) : WordReading :=
  match rows.get? (funct3Of w) with
  | some k => .instr (k (.reg (rdOf w)) (.reg (rs1Of w)) (immIOf w))
  | none => .unknownFunct3

/-- A store word. -/
def readS (w : Word) : WordReading :=
  match storeRows.get? (funct3Of w) with
  | some k => .instr (k (.reg (rs2Of w)) (.reg (rs1Of w)) (immSOf w))
  | none => .unknownFunct3

/-- A branch word. -/
def readB (w : Word) : WordReading :=
  match branchRows.get? (funct3Of w) with
  | some k => .instr (k (.reg (rs1Of w)) (.reg (rs2Of w)) (offBOf w))
  | none => .unknownFunct3

/-- The word decoder: the opcode selects the format (R76), the layout gives the fields (R61, R75). -/
def decodeWord (w : Word) : WordReading :=
  if opcodeOf w = 0b0110011#7 then readR w
  else if opcodeOf w = 0b0010011#7 then readI immArithRows w
  else if opcodeOf w = 0b0000011#7 then readI loadRows w
  else if opcodeOf w = 0b1100111#7 then readI jalrRows w
  else if opcodeOf w = 0b0100011#7 then readS w
  else if opcodeOf w = 0b1100011#7 then readB w
  else if opcodeOf w = 0b0110111#7 then .instr (.lui (.reg (rdOf w)) (upperOf w))
  else if opcodeOf w = 0b0010111#7 then .instr (.auipc (.reg (rdOf w)) (upperOf w))
  else if opcodeOf w = 0b1101111#7 then .instr (.jal (.reg (rdOf w)) (offJOf w))
  else .unknownOpcode

/-! ### Instructions to words (default tables and parameters) -/

/-- The five bits a resolved operand gives its slot. -/
def Resolved.bits : Resolved → RegIdx
  | .reg i => i
  | .disp n => BitVec.ofNat 5 n

/-- A register-register word of opcode 0110011. -/
def wordR (f7 : BitVec 7) (f3 : BitVec 3) (d a b : Resolved) : Word :=
  packR f7 b.bits a.bits f3 d.bits 0b0110011#7

/-- An immediate-format word. -/
def wordI (op : BitVec 7) (f3 : BitVec 3) (d a : Resolved) (v : Int) : Word :=
  packI (BitVec.ofInt 12 v) a.bits f3 d.bits op

/-- A store word of opcode 0100011. -/
def wordS (f3 : BitVec 3) (b a : Resolved) (v : Int) : Word :=
  packS (BitVec.ofInt 12 v) b.bits a.bits f3 0b0100011#7

/-- A branch word of opcode 1100011. -/
def wordB (f3 : BitVec 3) (a b : Resolved) (v : Int) : Word :=
  packB (BitVec.ofInt 13 v) b.bits a.bits f3 0b1100011#7

/-- An upper-immediate word. -/
def wordU (op : BitVec 7) (d : Resolved) (v : Int) : Word := packU (BitVec.ofInt 20 v) d.bits op

/-- A jump word of opcode 1101111. -/
def wordJ (d : Resolved) (v : Int) : Word := packJ (BitVec.ofInt 21 v) d.bits 0b1101111#7

/-- The two words of a wide `li`, on the 32-bit value: `hi = (v + 2048) >> 12`, `lo` the low twelve bits
(spec/opcode_table.json, the second row of `li`). -/
def wordsLiWide (d : Resolved) (v : Word) : List Word :=
  [packU (((v + 2048#32) >>> 12).setWidth 20) d.bits 0b0110111#7,
   packI (v.setWidth 12) d.bits 0b000#3 d.bits 0b0010011#7]

/-- The words of an instruction whose operands its encoding admits, written from the patterns of spec/opcode_table.json, not
from the machine's tables. -/
def encode : Instr → List Word
  | .add d a b => [wordR 0b0000000#7 0b000#3 d a b]
  | .sub d a b => [wordR 0b0100000#7 0b000#3 d a b]
  | .sll d a b => [wordR 0b0000000#7 0b001#3 d a b]
  | .slt d a b => [wordR 0b0000000#7 0b010#3 d a b]
  | .sltu d a b => [wordR 0b0000000#7 0b011#3 d a b]
  | .xor d a b => [wordR 0b0000000#7 0b100#3 d a b]
  | .srl d a b => [wordR 0b0000000#7 0b101#3 d a b]
  | .sra d a b => [wordR 0b0100000#7 0b101#3 d a b]
  | .or d a b => [wordR 0b0000000#7 0b110#3 d a b]
  | .and d a b => [wordR 0b0000000#7 0b111#3 d a b]
  | .addi d a v => [wordI 0b0010011#7 0b000#3 d a v]
  | .slti d a v => [wordI 0b0010011#7 0b010#3 d a v]
  | .sltiu d a v => [wordI 0b0010011#7 0b011#3 d a v]
  | .xori d a v => [wordI 0b0010011#7 0b100#3 d a v]
  | .ori d a v => [wordI 0b0010011#7 0b110#3 d a v]
  | .andi d a v => [wordI 0b0010011#7 0b111#3 d a v]
  | .lb d a v => [wordI 0b0000011#7 0b000#3 d a v]
  | .lh d a v => [wordI 0b0000011#7 0b001#3 d a v]
  | .lw d a v => [wordI 0b0000011#7 0b010#3 d a v]
  | .lbu d a v => [wordI 0b0000011#7 0b100#3 d a v]
  | .lhu d a v => [wordI 0b0000011#7 0b101#3 d a v]
  | .jalr d a v => [wordI 0b1100111#7 0b000#3 d a v]
  | .sb b a v => [wordS 0b000#3 b a v]
  | .sh b a v => [wordS 0b001#3 b a v]
  | .sw b a v => [wordS 0b010#3 b a v]
  | .beq a b v => [wordB 0b000#3 a b v]
  | .bne a b v => [wordB 0b001#3 a b v]
  | .blt a b v => [wordB 0b100#3 a b v]
  | .bge a b v => [wordB 0b101#3 a b v]
  | .bltu a b v => [wordB 0b110#3 a b v]
  | .bgeu a b v => [wordB 0b111#3 a b v]
  | .lui d u => [wordU 0b0110111#7 d u]
  | .auipc d u => [wordU 0b0010111#7 d u]
  | .jal d v => [wordJ d v]
  | .li d v => if imm12Ok v then [wordI 0b0010011#7 0b000#3 d (.reg 0) v] else wordsLiWide d (BitVec.ofInt 32 v)
  | .mv d a => [wordI 0b0010011#7 0b000#3 d a 0]
  | .nop => [0x00000013#32]
  | .not d a => [wordI 0b0010011#7 0b100#3 d a (-1)]
  | .neg d a => [wordR 0b0100000#7 0b000#3 d (.reg 0) a]
  | .la d u => [wordU 0b0010111#7 d u]
  | .j v => [wordJ (.reg 0) v]
  | .jlink d v => [wordJ d v]
  | .ret => [0x00008067#32]
  | .bgt s t v => [wordB 0b100#3 t s v]
  | .ble s t v => [wordB 0b101#3 t s v]

/-! ### What reading an instruction's words back gives -/

/-- A slot's bits read back are a register (R73: a displacement packs the bits a register of that index would give). -/
def Resolved.reread (r : Resolved) : Resolved := .reg r.bits

/-- The upper-immediate operand read back is the unsigned field value (R75). -/
def upperReread (u : Int) : Int := u % 1048576

/-- The real instructions that the words of an instruction are: itself with its operands read back, or the steps of its
expansion at the default parameters (R75, R221 to R231). -/
def Instr.reread : Instr → List Instr
  | .add d a b => [.add d.reread a.reread b.reread]
  | .sub d a b => [.sub d.reread a.reread b.reread]
  | .sll d a b => [.sll d.reread a.reread b.reread]
  | .slt d a b => [.slt d.reread a.reread b.reread]
  | .sltu d a b => [.sltu d.reread a.reread b.reread]
  | .xor d a b => [.xor d.reread a.reread b.reread]
  | .srl d a b => [.srl d.reread a.reread b.reread]
  | .sra d a b => [.sra d.reread a.reread b.reread]
  | .or d a b => [.or d.reread a.reread b.reread]
  | .and d a b => [.and d.reread a.reread b.reread]
  | .addi d a v => [.addi d.reread a.reread v]
  | .slti d a v => [.slti d.reread a.reread v]
  | .sltiu d a v => [.sltiu d.reread a.reread v]
  | .xori d a v => [.xori d.reread a.reread v]
  | .ori d a v => [.ori d.reread a.reread v]
  | .andi d a v => [.andi d.reread a.reread v]
  | .lb d a v => [.lb d.reread a.reread v]
  | .lh d a v => [.lh d.reread a.reread v]
  | .lw d a v => [.lw d.reread a.reread v]
  | .lbu d a v => [.lbu d.reread a.reread v]
  | .lhu d a v => [.lhu d.reread a.reread v]
  | .jalr d a v => [.jalr d.reread a.reread v]
  | .sb b a v => [.sb b.reread a.reread v]
  | .sh b a v => [.sh b.reread a.reread v]
  | .sw b a v => [.sw b.reread a.reread v]
  | .beq a b v => [.beq a.reread b.reread v]
  | .bne a b v => [.bne a.reread b.reread v]
  | .blt a b v => [.blt a.reread b.reread v]
  | .bge a b v => [.bge a.reread b.reread v]
  | .bltu a b v => [.bltu a.reread b.reread v]
  | .bgeu a b v => [.bgeu a.reread b.reread v]
  | .lui d u => [.lui d.reread (upperReread u)]
  | .auipc d u => [.auipc d.reread (upperReread u)]
  | .jal d v => [.jal d.reread v]
  | .li d v =>
    if imm12Ok v then [.addi d.reread (.reg 0) v]
    else [.lui d.reread (shr (v % 4294967296 + 2048) 12 % 1048576), .addi d.reread d.reread (sext 12 v)]
  | .mv d a => [.addi d.reread a.reread 0]
  | .nop => [.addi (.reg 0) (.reg 0) 0]
  | .not d a => [.xori d.reread a.reread (-1)]
  | .neg d a => [.sub d.reread (.reg 0) a.reread]
  | .la d u => [.auipc d.reread (upperReread u)]
  | .j v => [.jal (.reg 0) v]
  | .jlink d v => [.jal d.reread v]
  | .ret => [.jalr (.reg 0) (.reg 1) 0]
  | .bgt s t v => [.blt t.reread s.reread v]
  | .ble s t v => [.bge t.reread s.reread v]

/-! ### The host's two questions -/

/-- The 32-bit word of an instruction whose first `nbits` bits are `w`, the bits above `nbits` zero. -/
def tableWord (nbits w : Nat) : Word := BitVec.ofNat 32 (w % 2 ^ nbits)

/-- The instruction the word decoder reads from a row's word, bit 0 the least significant (log entry 19). -/
def decodeTableWord (nbits w : Nat) : Option Instr :=
  match decodeWord (tableWord nbits w) with
  | .instr i => some i
  | .unknownOpcode | .unknownFunct3 | .unknownFunct7 => none

/-- One hexadecimal digit, lower case (R10). -/
def hexDigit (n : Nat) : Char := Nat.digitChar (n % 16)

/-- `hx(w)`: `0x` and exactly eight hexadecimal digits, most significant first, lower case (R10). -/
def hx (w : Word) : Token :=
  String.ofList ('0' :: 'x' :: [7, 6, 5, 4, 3, 2, 1, 0].map fun k => hexDigit (w.toNat / 16 ^ k))

/-- The request that asks for the instruction of a word. A word that is none of the table's is asked for by its hexadecimal
rendering, which is no mnemonic (log entry 20). -/
def requestOfWord (p : Params) (nbits w : Nat) : Request :=
  match decodeTableWord nbits w with
  | some i => spell p i
  | none => [hx (tableWord nbits w)]

end Sys2Proof
end

