-- ==== Sys2Proof/Machine/Encoders.lean ====
section
/-! DEFINITION. The six Format Encoders (ASM 4.3), each a contract on any mnemonic, and the encoding of a step and of a
sequence of steps.
Sources: spec/41_register_register.md R120; spec/42_immediate.md R140; spec/43_store.md R170; spec/44_branch.md R180;
spec/45_upper_immediate.md R200; spec/46_jump.md R210; spec/48_dispatcher.md R255 to R257. -/

namespace Sys2Proof.Machine

/-- The first test of every encoder: the mnemonic belongs to its format's category, else `WrongInstructionType`; a
mnemonic in no category included (R120, R273). -/
def requireCategory (e : Engine) (mn : Token) (c : Category) : Result Unit :=
  if e.cat.get? mn = some c then .ok () else raise .wrongInstructionType (.token mn)

/-- A range check on an integer operand (R274 c to g). -/
def requireRange (ok : Bool) (v : Int) : Result Unit :=
  if ok then .ok () else raise .operandRangeError (.value v)

/-- The funct3 a format packs; where an ill-formed table lacks it, any value (U6). -/
def funct3For (e : Engine) (st : RealStep) (fs : FieldSpec) : BitVec 3 := fs.funct3.getD (Config.freeFunct3 e st)

/-- The funct7 format R packs; where an ill-formed table lacks it, any value (U6). -/
def funct7For (e : Engine) (st : RealStep) (fs : FieldSpec) : BitVec 7 := fs.funct7.getD (Config.freeFunct7 e st)

/-- `EncR(mn, rd, rs1, rs2)` (R120). -/
def encR (e : Engine) (mn : Token) (rd rs1 rs2 : Resolved) : Result Word :=
  (requireCategory e mn .R).bind fun _ =>
  (lookup e mn).bind fun fs =>
  (dstField rd).bind fun d =>
  (srcField rs1).bind fun s1 =>
  (srcField rs2).bind fun s2 =>
  .ok (packR (funct7For e ⟨mn, .regReg rd rs1 rs2⟩ fs) s2 s1 (funct3For e ⟨mn, .regReg rd rs1 rs2⟩ fs) d fs.opcode)

/-- `EncI(mn, rd, rs1, imm)` (R140). -/
def encI (e : Engine) (mn : Token) (rd rs1 : Resolved) (imm : Int) : Result Word :=
  (requireCategory e mn .I).bind fun _ =>
  (lookup e mn).bind fun fs =>
  (dstField rd).bind fun d =>
  (srcField rs1).bind fun s1 =>
  (requireRange (imm12Ok imm) imm).bind fun _ =>
  .ok (packI (immField imm) s1 (funct3For e ⟨mn, .immediate rd rs1 imm⟩ fs) d fs.opcode)

/-- `EncS(mn, rs2, rs1, imm)` (R170). -/
def encS (e : Engine) (mn : Token) (rs2 rs1 : Resolved) (imm : Int) : Result Word :=
  (requireCategory e mn .S).bind fun _ =>
  (lookup e mn).bind fun fs =>
  (srcField rs2).bind fun s2 =>
  (srcField rs1).bind fun s1 =>
  (requireRange (imm12Ok imm) imm).bind fun _ =>
  .ok (packS (immField imm) s2 s1 (funct3For e ⟨mn, .store rs2 rs1 imm⟩ fs) fs.opcode)

/-- `EncB(mn, rs1, rs2, off)` (R180). -/
def encB (e : Engine) (mn : Token) (rs1 rs2 : Resolved) (off : Int) : Result Word :=
  (requireCategory e mn .B).bind fun _ =>
  (lookup e mn).bind fun fs =>
  (srcField rs1).bind fun s1 =>
  (srcField rs2).bind fun s2 =>
  (requireRange (branchOk off) off).bind fun _ =>
  .ok (packB (branchField off) s2 s1 (funct3For e ⟨mn, .branch rs1 rs2 off⟩ fs) fs.opcode)

/-- `EncU(mn, rd, u)` (R200). -/
def encU (e : Engine) (mn : Token) (rd : Resolved) (u : Int) : Result Word :=
  (requireCategory e mn .U).bind fun _ =>
  (lookup e mn).bind fun fs =>
  (dstField rd).bind fun d =>
  (requireRange (upperOk u) u).bind fun _ =>
  .ok (packU (upperField u) d fs.opcode)

/-- `EncJ(mn, rd, off)`; it reads the parameter `J_ALIGN` (R210). -/
def encJ (e : Engine) (mn : Token) (rd : Resolved) (off : Int) : Result Word :=
  (requireCategory e mn .J).bind fun _ =>
  (lookup e mn).bind fun fs =>
  (dstField rd).bind fun d =>
  (requireRange (jumpOk e.params.jAlign off) off).bind fun _ =>
  .ok (packJ (jumpField off) d fs.opcode)

/-- A step goes to the encoder of its own format (R232, R255). -/
def encodeStep (e : Engine) (st : RealStep) : Result Word :=
  match st.args with
  | .regReg rd rs1 rs2 => encR e st.mn rd rs1 rs2
  | .immediate rd rs1 imm => encI e st.mn rd rs1 imm
  | .store rs2 rs1 imm => encS e st.mn rs2 rs1 imm
  | .branch rs1 rs2 off => encB e st.mn rs1 rs2 off
  | .upper rd u => encU e st.mn rd u
  | .jump rd off => encJ e st.mn rd off

/-- The words of a sequence of steps, in order, all or nothing (R256, R257). -/
def encodeSteps (e : Engine) : List RealStep → Result (List Word)
  | [] => .ok []
  | st :: rest => (encodeStep e st).bind fun w => (encodeSteps e rest).bind fun ws => .ok (w :: ws)

end Sys2Proof.Machine
end

