-- ==== Sys2Proof/Machine/Expander.lean ====
section
/-! DEFINITION. The Pseudo-Instruction Expander (ASM 4.4): each pseudo-instruction as one or two real steps.
Source: spec/47_pseudo.md R220 to R233. -/

namespace Sys2Proof.Machine

/-- `lo` of the compensated split: `sext_12(v[11:0])` (R221). -/
def liLow (v : Int) : Int := sext 12 (slice v 11 0)

/-- `hi` of the compensated split: `((v + 2048) >> 12) mod 2^20` (R221). -/
def liHigh (v : Int) : Int := shr (v + 2048) 12 % 2 ^ 20

/-- The two steps of a wide `li`, by `LI_SPLIT` (R221). -/
def liWideSteps (split : LiSplit) (rd : Resolved) (v : Int) : List RealStep :=
  match split with
  | .compensated => [⟨"lui", .upper rd (liHigh v)⟩, ⟨"addi", .immediate rd rd (liLow v)⟩]
  | .plain => [⟨"lui", .upper rd (shr v 12)⟩, ⟨"addi", .immediate rd rd (v % 4096)⟩]

/-- `li rd imm`: one step when `imm` fits twelve bits, else two; out of range, `OperandRangeError` (R221). -/
def expandLi (p : Params) (rd : Resolved) (imm : Int) : Result (List RealStep) :=
  if imm12Ok imm then .ok [⟨"addi", .immediate rd (.reg p.zeroReg) imm⟩]
  else if liRangeOk p.liWidth imm then .ok (liWideSteps p.liSplit rd (imm % 2 ^ p.liWidth))
  else raise .operandRangeError (.value imm)

/-- `mv rd rs` (R222). -/
def expandMv (rd rs : Resolved) : List RealStep := [⟨"addi", .immediate rd rs 0⟩]

/-- `nop` (R223). -/
def expandNop (p : Params) : List RealStep := [⟨"addi", .immediate (.reg p.zeroReg) (.reg p.zeroReg) 0⟩]

/-- `not rd rs`: the all-ones immediate is requested as -1 (R224). -/
def expandNot (rd rs : Resolved) : List RealStep := [⟨"xori", .immediate rd rs (-1)⟩]

/-- `neg rd rs`: the zero register is the left operand (R225). -/
def expandNeg (p : Params) (rd rs : Resolved) : List RealStep := [⟨"sub", .regReg rd (.reg p.zeroReg) rs⟩]

/-- `la rd off`: the offset is handed on unchanged (R226). -/
def expandLa (rd : Resolved) (off : Int) : List RealStep := [⟨"auipc", .upper rd off⟩]

/-- `j off` (R227). -/
def expandJ (p : Params) (off : Int) : List RealStep := [⟨"jal", .jump (.reg p.defaultLink) off⟩]

/-- The second spelling of the unconditional jump, its link register an operand (R228). -/
def expandJlink (rd : Resolved) (off : Int) : List RealStep := [⟨"jal", .jump rd off⟩]

/-- `ret` (R229). -/
def expandRet (p : Params) : List RealStep := [⟨"jalr", .immediate (.reg p.zeroReg) (.reg p.raReg) 0⟩]

/-- `bgt rs rt off`: less-than with the two registers swapped (R230). -/
def expandBgt (rs rt : Resolved) (off : Int) : List RealStep := [⟨"blt", .branch rt rs off⟩]

/-- `ble rs rt off`: greater-or-equal with the two registers swapped (R231). -/
def expandBle (rs rt : Resolved) (off : Int) : List RealStep := [⟨"bge", .branch rt rs off⟩]

/-- The expansion of one pseudo-instruction on operands of its shape. -/
def expandOp (p : Params) : PseudoOp → List Operand → Result (List RealStep)
  | .li, [.reg rd, .int imm] => expandLi p rd imm
  | .mv, [.reg rd, .reg rs] => .ok (expandMv rd rs)
  | .nop, [] => .ok (expandNop p)
  | .not, [.reg rd, .reg rs] => .ok (expandNot rd rs)
  | .neg, [.reg rd, .reg rs] => .ok (expandNeg p rd rs)
  | .la, [.reg rd, .int off] => .ok (expandLa rd off)
  | .j, [.int off] => .ok (expandJ p off)
  | .jlink, [.reg rd, .int off] => .ok (expandJlink rd off)
  | .ret, [] => .ok (expandRet p)
  | .bgt, [.reg rs, .reg rt, .int off] => .ok (expandBgt rs rt off)
  | .ble, [.reg rs, .reg rt, .int off] => .ok (expandBle rs rt off)
  | _, _ => .malformed

/-- `expand(mn, operands)`; a mnemonic that is none of the eleven raises `UnknownMnemonic` (R220). -/
def expand (p : Params) (mn : Token) (ops : List Operand) : Result (List RealStep) :=
  match (pseudoSpellings p).get? mn with
  | some k => expandOp p k ops
  | none => raise .unknownMnemonic (.token mn)

end Sys2Proof.Machine
end

