-- ==== Sys2Proof/Machine/State.lean ====
section
/-! DEFINITION. The state of the machine: the engine (the whole state the spec gives `ENC`, R20), whether construction is
complete, and the two ends of the host interface. There is no register file, program counter, flag, control register or
memory to hold (spec/10_state.md R24 to R28). -/

namespace Sys2Proof.Machine

/-- Which of the three tables the external loader has loaded (R302, steps 1 and 2). -/
structure Loaded where
  optab : Bool
  cat : Bool
  regtab : Bool
  deriving DecidableEq, Repr

/-- Construction, the block's reset, is under way or complete (R50, R300, R302). -/
inductive Phase where
  /-- The external loader may still write the tables; no request has a meaning (R281, R302). -/
  | loading (done : Loaded)
  /-- The engine is constructed; its tables are read-only (R20, R303). -/
  | ready
  deriving DecidableEq, Repr

/-- What a request is answered with: the ordered sequence of its words, or its failure (R250, R278). -/
inductive Response where
  | words (ws : List Word)
  | error (f : Failure)
  deriving DecidableEq, Repr

/-- The state. `engine` is the spec's whole state; `phase` is the spec's construction; `requests` and `responses` are the
model's own ends of the interface (log entry 1). -/
structure State where
  /-- Loading or ready (R300 to R303). -/
  phase : Phase
  /-- `OPTAB`, `CAT`, `REGTAB` and the named parameters (R20 to R23, R8). -/
  engine : Engine
  /-- The requests the caller has made and the block has not answered, the next one first. -/
  requests : List Request
  /-- The outcomes handed to the caller, the first one first (R43, R259). -/
  responses : List Response
  deriving DecidableEq, Repr

/-- Why a step stops for good. No rule raises it and no step of the model does: the kind the source calls fatal is
unreachable because a word is 32 bits by type (R275). -/
inductive Fault where
  /-- "internal invariant violation: produced word is not exactly 32 bits"; raised by nothing (safe: no step ends in it). -/
  | structuralEncodingError
  deriving DecidableEq, Repr

/-- Why the model gives no meaning. -/
inductive Refusal where
  /-- An instruction without a meaning in this model; no arm raises it (safe). -/
  | notModelled (mnemonic : String)
  /-- R276, the spec's own outcome for a request outside the interface contract: a wrong number of operand tokens, a
  non-integer token in an integer position, an ill-formed bracketed literal. Raised by a step (safe). -/
  | malformedRequest
  /-- A request made before construction is complete "has no meaning" (R302, U16). Raised by `submit`, and by a step or a
  `construct` that finds such a request (safe). -/
  | notConstructed
  /-- Construction before all three tables are loaded: "both must be complete" (R302). Raised by `construct` (safe). -/
  | incompleteConstruction
  /-- Construction over tables that are not well formed (R34, D26). Raised by `construct` (safe). -/
  | illFormedConfiguration
  /-- A table load, or a construction, on a constructed engine: "no mutation API" (R303). Raised by the loader's
  operations (safe). -/
  | alreadyConstructed
  deriving DecidableEq, Repr

/-- The state after construction with the default configuration: the three default tables, the default parameters, no
request in flight (R30, R301). -/
def State.reset : State where
  phase := .ready
  engine := defaultEngine
  requests := []
  responses := []

end Sys2Proof.Machine
end

