-- ==== Sys2Proof/Machine/Ops.lean ====
section
/-! DEFINITION. The operations on the state: taking a request, answering it, the failure protocol, and the answer of a real
instruction and of an expansion.
Sources: spec/48_dispatcher.md R255 to R259; spec/60_exceptions.md R276, R278, R279; spec/20_memory.md R43, R45. -/

namespace Sys2Proof.Machine

/-- What an operation on the state answers. -/
abbrev Answer := Host.Outcome State Fault Refusal

/-- The outcomes handed to the caller so far, and one more (R43: in the order of the requests). -/
def State.respond (s : State) (r : Response) : State := { s with responses := s.responses ++ [r] }

/-- The state with the given requests left to answer. -/
def State.withRequests (s : State) (rs : List Request) : State := { s with requests := rs }

/-- The caller makes one more request, after those already made (R2, R250). Before construction is complete a request has no
meaning (R50, R302). -/
def submit (r : Request) (s : State) : Answer :=
  match s.phase with
  | .loading _ => .refused .notConstructed
  | .ready => .next (s.withRequests (s.requests ++ [r]))

/-- TAKING A FAILURE, the analogue of trap entry (R278): no word of the request is output, no state changes, and the failure
is returned to the caller in place of the word sequence, with its kind and info. Control goes nowhere inside the block.
The return from it is nothing at all: the state is already the one the next request is encoded in (R279). -/
def takeFailure (s : State) (f : Failure) : Answer := .next (s.respond (.error f))

/-- The outcome of a request handed to the caller: its words in order, or its failure. A malformed request is refused, the
spec's own third outcome (R13, R259, R276). -/
def deliver (s : State) (r : Result (List Word)) : Answer :=
  match r with
  | .ok ws => .next (s.respond (.words ws))
  | .err f => takeFailure s f
  | .malformed => .refused .malformedRequest

/-- A real instruction: the one word its encoder returns, or the error it raises (R255). -/
def deliverStep (s : State) (st : RealStep) : Answer :=
  deliver s ((encodeStep s.engine st).bind fun w => .ok [w])

/-- A pseudo-instruction: the words of its steps in order, all or nothing (R256, R257). -/
def deliverExpansion (s : State) (steps : Result (List RealStep)) : Answer :=
  deliver s (steps.bind (encodeSteps s.engine))

end Sys2Proof.Machine
end

