-- ==== Sys2Proof/Machine/Branch.lean ====
section
/-! DEFINITION. The meanings of the six branches: rule R180 with each mnemonic's FieldSpec. The offset arrives already resolved (R25).
Source: spec/44_branch.md R181 to R186. -/

namespace Sys2Proof.Machine

/-- `beq rs1 rs2 off` (R181). -/
def execBeq (rs1 rs2 : Resolved) (off : Int) (s : State) : Answer :=
  deliverStep s ⟨"beq", .branch rs1 rs2 off⟩

/-- `bne rs1 rs2 off` (R182). -/
def execBne (rs1 rs2 : Resolved) (off : Int) (s : State) : Answer :=
  deliverStep s ⟨"bne", .branch rs1 rs2 off⟩

/-- `blt rs1 rs2 off` (R183). -/
def execBlt (rs1 rs2 : Resolved) (off : Int) (s : State) : Answer :=
  deliverStep s ⟨"blt", .branch rs1 rs2 off⟩

/-- `bge rs1 rs2 off` (R184). -/
def execBge (rs1 rs2 : Resolved) (off : Int) (s : State) : Answer :=
  deliverStep s ⟨"bge", .branch rs1 rs2 off⟩

/-- `bltu rs1 rs2 off` (R185). -/
def execBltu (rs1 rs2 : Resolved) (off : Int) (s : State) : Answer :=
  deliverStep s ⟨"bltu", .branch rs1 rs2 off⟩

/-- `bgeu rs1 rs2 off` (R186). -/
def execBgeu (rs1 rs2 : Resolved) (off : Int) (s : State) : Answer :=
  deliverStep s ⟨"bgeu", .branch rs1 rs2 off⟩

end Sys2Proof.Machine
end

