-- ==== Sys2Proof/Machine/Immediate.lean ====
section
/-! DEFINITION. The meanings of the twelve immediate-format instructions: rule R140 with each mnemonic's FieldSpec. The loads and `jalr` are
only encoded: the block performs no access and no jump (R40, R25).
Source: spec/42_immediate.md R141 to R152. -/

namespace Sys2Proof.Machine

/-- `addi rd rs1 imm` (R141). -/
def execAddi (rd rs1 : Resolved) (imm : Int) (s : State) : Answer :=
  deliverStep s ⟨"addi", .immediate rd rs1 imm⟩

/-- `slti rd rs1 imm` (R142). -/
def execSlti (rd rs1 : Resolved) (imm : Int) (s : State) : Answer :=
  deliverStep s ⟨"slti", .immediate rd rs1 imm⟩

/-- `sltiu rd rs1 imm` (R143). -/
def execSltiu (rd rs1 : Resolved) (imm : Int) (s : State) : Answer :=
  deliverStep s ⟨"sltiu", .immediate rd rs1 imm⟩

/-- `xori rd rs1 imm` (R144). -/
def execXori (rd rs1 : Resolved) (imm : Int) (s : State) : Answer :=
  deliverStep s ⟨"xori", .immediate rd rs1 imm⟩

/-- `ori rd rs1 imm` (R145). -/
def execOri (rd rs1 : Resolved) (imm : Int) (s : State) : Answer :=
  deliverStep s ⟨"ori", .immediate rd rs1 imm⟩

/-- `andi rd rs1 imm` (R146). -/
def execAndi (rd rs1 : Resolved) (imm : Int) (s : State) : Answer :=
  deliverStep s ⟨"andi", .immediate rd rs1 imm⟩

/-- `lb rd rs1 imm` (R147). -/
def execLb (rd rs1 : Resolved) (imm : Int) (s : State) : Answer :=
  deliverStep s ⟨"lb", .immediate rd rs1 imm⟩

/-- `lh rd rs1 imm` (R148). -/
def execLh (rd rs1 : Resolved) (imm : Int) (s : State) : Answer :=
  deliverStep s ⟨"lh", .immediate rd rs1 imm⟩

/-- `lw rd rs1 imm` (R149). -/
def execLw (rd rs1 : Resolved) (imm : Int) (s : State) : Answer :=
  deliverStep s ⟨"lw", .immediate rd rs1 imm⟩

/-- `lbu rd rs1 imm` (R150). -/
def execLbu (rd rs1 : Resolved) (imm : Int) (s : State) : Answer :=
  deliverStep s ⟨"lbu", .immediate rd rs1 imm⟩

/-- `lhu rd rs1 imm` (R151). -/
def execLhu (rd rs1 : Resolved) (imm : Int) (s : State) : Answer :=
  deliverStep s ⟨"lhu", .immediate rd rs1 imm⟩

/-- `jalr rd rs1 imm` (R152). -/
def execJalr (rd rs1 : Resolved) (imm : Int) (s : State) : Answer :=
  deliverStep s ⟨"jalr", .immediate rd rs1 imm⟩

end Sys2Proof.Machine
end

