-- ==== Sys2Proof/Machine/Jump.lean ====
section
/-! DEFINITION. The meaning of the jump: rule R210 with its opcode.
Source: spec/46_jump.md R211. -/

namespace Sys2Proof.Machine

/-- `jal rd off` (R211). -/
def execJal (rd : Resolved) (off : Int) (s : State) : Answer :=
  deliverStep s ⟨"jal", .jump rd off⟩

end Sys2Proof.Machine
end

