-- ==== Sys2Proof/Machine/Pseudo.lean ====
section
/-! DEFINITION. The meanings of the eleven pseudo-instructions: each is expanded, and each step encoded by the encoder of its format
(R232, R256).
Source: spec/47_pseudo.md R221 to R231. -/

namespace Sys2Proof.Machine

/-- `li rd imm` (R221). -/
def execLi (rd : Resolved) (imm : Int) (s : State) : Answer :=
  deliverExpansion s (expandLi s.engine.params rd imm)

/-- `mv rd rs` (R222). -/
def execMv (rd rs : Resolved) (s : State) : Answer :=
  deliverExpansion s (.ok (expandMv rd rs))

/-- `nop` (R223). -/
def execNop (s : State) : Answer :=
  deliverExpansion s (.ok (expandNop s.engine.params))

/-- `not rd rs` (R224). -/
def execNot (rd rs : Resolved) (s : State) : Answer :=
  deliverExpansion s (.ok (expandNot rd rs))

/-- `neg rd rs` (R225). -/
def execNeg (rd rs : Resolved) (s : State) : Answer :=
  deliverExpansion s (.ok (expandNeg s.engine.params rd rs))

/-- `la rd off` (R226). -/
def execLa (rd : Resolved) (off : Int) (s : State) : Answer :=
  deliverExpansion s (.ok (expandLa rd off))

/-- `j off` (R227). -/
def execJ (off : Int) (s : State) : Answer :=
  deliverExpansion s (.ok (expandJ s.engine.params off))

/-- `jlink rd off` (R228). -/
def execJlink (rd : Resolved) (off : Int) (s : State) : Answer :=
  deliverExpansion s (.ok (expandJlink rd off))

/-- `ret` (R229). -/
def execRet (s : State) : Answer :=
  deliverExpansion s (.ok (expandRet s.engine.params))

/-- `bgt rs rt off` (R230). -/
def execBgt (rs rt : Resolved) (off : Int) (s : State) : Answer :=
  deliverExpansion s (.ok (expandBgt rs rt off))

/-- `ble rs rt off` (R231). -/
def execBle (rs rt : Resolved) (off : Int) (s : State) : Answer :=
  deliverExpansion s (.ok (expandBle rs rt off))

end Sys2Proof.Machine
end

