-- ==== Sys2Proof/Machine/RegisterRegister.lean ====
section
/-! DEFINITION. The meanings of the ten register-register instructions: rule R120 with each mnemonic's FieldSpec.
Source: spec/41_register_register.md R121 to R130. -/

namespace Sys2Proof.Machine

/-- `add rd rs1 rs2` (R121). -/
def execAdd (rd rs1 rs2 : Resolved) (s : State) : Answer :=
  deliverStep s ⟨"add", .regReg rd rs1 rs2⟩

/-- `sub rd rs1 rs2` (R122). -/
def execSub (rd rs1 rs2 : Resolved) (s : State) : Answer :=
  deliverStep s ⟨"sub", .regReg rd rs1 rs2⟩

/-- `sll rd rs1 rs2` (R123). -/
def execSll (rd rs1 rs2 : Resolved) (s : State) : Answer :=
  deliverStep s ⟨"sll", .regReg rd rs1 rs2⟩

/-- `slt rd rs1 rs2` (R124). -/
def execSlt (rd rs1 rs2 : Resolved) (s : State) : Answer :=
  deliverStep s ⟨"slt", .regReg rd rs1 rs2⟩

/-- `sltu rd rs1 rs2` (R125). -/
def execSltu (rd rs1 rs2 : Resolved) (s : State) : Answer :=
  deliverStep s ⟨"sltu", .regReg rd rs1 rs2⟩

/-- `xor rd rs1 rs2` (R126). -/
def execXor (rd rs1 rs2 : Resolved) (s : State) : Answer :=
  deliverStep s ⟨"xor", .regReg rd rs1 rs2⟩

/-- `srl rd rs1 rs2` (R127). -/
def execSrl (rd rs1 rs2 : Resolved) (s : State) : Answer :=
  deliverStep s ⟨"srl", .regReg rd rs1 rs2⟩

/-- `sra rd rs1 rs2` (R128). -/
def execSra (rd rs1 rs2 : Resolved) (s : State) : Answer :=
  deliverStep s ⟨"sra", .regReg rd rs1 rs2⟩

/-- `or rd rs1 rs2` (R129). -/
def execOr (rd rs1 rs2 : Resolved) (s : State) : Answer :=
  deliverStep s ⟨"or", .regReg rd rs1 rs2⟩

/-- `and rd rs1 rs2` (R130). -/
def execAnd (rd rs1 rs2 : Resolved) (s : State) : Answer :=
  deliverStep s ⟨"and", .regReg rd rs1 rs2⟩

end Sys2Proof.Machine
end

