-- ==== Sys2Proof/Machine/Store.lean ====
section
/-! DEFINITION. The meanings of the three stores: rule R170 with each mnemonic's FieldSpec. They are only encoded (R40).
Source: spec/43_store.md R171 to R173. -/

namespace Sys2Proof.Machine

/-- `sb rs2 rs1 imm` (R171). -/
def execSb (rs2 rs1 : Resolved) (imm : Int) (s : State) : Answer :=
  deliverStep s ⟨"sb", .store rs2 rs1 imm⟩

/-- `sh rs2 rs1 imm` (R172). -/
def execSh (rs2 rs1 : Resolved) (imm : Int) (s : State) : Answer :=
  deliverStep s ⟨"sh", .store rs2 rs1 imm⟩

/-- `sw rs2 rs1 imm` (R173). -/
def execSw (rs2 rs1 : Resolved) (imm : Int) (s : State) : Answer :=
  deliverStep s ⟨"sw", .store rs2 rs1 imm⟩

end Sys2Proof.Machine
end

