-- ==== Sys2Proof/Machine/UpperImmediate.lean ====
section
/-! DEFINITION. The meanings of the two upper-immediate instructions: rule R200 with each mnemonic's opcode.
Source: spec/45_upper_immediate.md R201, R202. -/

namespace Sys2Proof.Machine

/-- `lui rd u` (R201). -/
def execLui (rd : Resolved) (u : Int) (s : State) : Answer :=
  deliverStep s ⟨"lui", .upper rd u⟩

/-- `auipc rd u` (R202). -/
def execAuipc (rd : Resolved) (u : Int) (s : State) : Answer :=
  deliverStep s ⟨"auipc", .upper rd u⟩

end Sys2Proof.Machine
end

