-- ==== Sys2Proof/Machine/Dispatcher.lean ====
section
/-! DEFINITION. The Instruction Dispatcher (ASM 4.5). `serve` is what one step does with a request: decode it, then run the
meaning of the instruction it asks for. `dispatchLine` is the spec's own pseudocode of the same operation, on tokens and
tables alone; that the two agree is an obligation.
Sources: spec/48_dispatcher.md R250 to R259; spec/60_exceptions.md R277; spec/70_reset_and_hazards.md R302, R305. -/

namespace Sys2Proof.Machine

/-- Answer one decoded request in a state from which it has been taken. -/
def serveDecoded (s : State) (d : Result Decoded) : Answer :=
  match d with
  | .ok .blank => deliver s (.ok [])
  | .ok (.instr i) => exec i s
  | .ok (.configured st) => deliverStep s st
  | .err f => takeFailure s f
  | .malformed => .refused .malformedRequest

/-- Take the next request and answer it. Before construction is complete it has no meaning (R302); with no request made,
nothing happens (R29, R304). -/
def serveNext (s : State) : Answer :=
  match s.requests with
  | [] => .next s
  | req :: rest =>
    match s.phase with
    | .loading _ => .refused .notConstructed
    | .ready => serveDecoded (s.withRequests rest) (decodeRequest s.engine req)

/-- The request shape of a mnemonic in its category; none for a mnemonic of category `P` that is none of the eleven (R253; log
entry 15). -/
def shapeOf (p : Params) (c : Category) (mn : Token) : Option (List OperandKind) :=
  match c with
  | .P => ((pseudoSpellings p).get? mn).map pseudoShape
  | c => some (formatShape c)

/-- The steps of a classified request: its expansion, or itself (R255, R256). -/
def stepsOf (p : Params) (c : Category) (mn : Token) (ops : List Operand) : Result (List RealStep) :=
  match c with
  | .P => expand p mn ops
  | c =>
    match argsOf c ops with
    | some a => .ok [⟨mn, a⟩]
    | none => .malformed

/-- `dispatchLine(tokens)`, as R256 writes it. -/
def dispatchLine (e : Engine) : Request → Result (List Word)
  | [] => .ok []
  | mn :: toks =>
    (classify e mn).bind fun c =>
      match shapeOf e.params c mn with
      | none => .malformed
      | some shape =>
        if shapeOk shape toks then
          (readOperands e shape toks).bind fun ops => (stepsOf e.params c mn ops).bind (encodeSteps e)
        else .malformed

/-- The number of words a line produces when it produces any, the rule the address resolver needs: 0 for the empty request,
2 for a `li` whose immediate is outside -2048..2047, else 1 (R259, R305). -/
def lineWordCount (p : Params) : Request → Nat
  | [] => 0
  | [mn, _, v] =>
    match (pseudoSpellings p).get? mn, integer? v with
    | some .li, some imm => if imm12Ok imm then 1 else 2
    | _, _ => 1
  | _ => 1

/-- The state with one more request standing where the next step takes its request from. -/
def State.withNextRequest (s : State) (r : Request) : State := s.withRequests (r :: s.requests)

end Sys2Proof.Machine
end

