-- ==== Sys2Proof/Machine/Step.lean ====
section
/-! DEFINITION. One step: one request taken and answered (spec/70_reset_and_hazards.md R308: every request completes in one
step). -/

namespace Sys2Proof.Machine

/-- One step of the machine. -/
def step (s : State) : Host.Outcome State Fault Refusal := serveNext s

/-- The state in which the next step runs the instruction of the given word (log entry 20): the request that asks for it
stands first. -/
def State.withFetchWord (s : State) (nbits w : Nat) : State :=
  s.withNextRequest (requestOfWord s.engine.params nbits w)

end Sys2Proof.Machine
end

