-- ==== Sys2Proof/Machine/Render.lean ====
section
/-! DEFINITION. The caller's side of the output: the program image, the place of each word in it, and the serializer's
renderings. None of it is read by the block (spec/00_scope.md R4, R10; spec/10_state.md R25; spec/20_memory.md R42, R43);
`hx` stands in Sys2Proof/Decode.lean. -/

namespace Sys2Proof.Machine

/-- The words of one response; a failed line contributes none (R278). -/
def Response.image : Response → List Word
  | .words ws => ws
  | .error _ => []

/-- The program image of a caller that collects and continues: the outputs concatenated in request order (R43). -/
def image (rs : List Response) : List Word := (rs.map Response.image).flatten

/-- A line's output occupies `4 * k` bytes for `k` words (R25). -/
def lineBytes (ws : List Word) : Nat := 4 * ws.length

/-- Word `j` of a line sits `4 * j` bytes after the line's first word (R25). -/
def wordOffset (j : Nat) : Nat := 4 * j

/-- `bs(w)`: 32 characters, string index 0 the most significant bit (R10). -/
def bs (w : Word) : Token := String.ofList ((List.range 32).map fun i => if w.getMsbD i then '1' else '0')

/-- Nibble-grouped text: the bits of a word in groups of four, separated by a delimiter that the serializer chooses (R42). DESIGN
CHOICE (log entry 34): the spec defines no nibble rendering (N27); a group is its four binary digits, and the groups stand most
significant first, as in `bs`. -/
def nibbleText (delimiter : Token) (w : Word) : Token :=
  String.intercalate delimiter ([7, 6, 5, 4, 3, 2, 1, 0].map fun k =>
    String.ofList ([3, 2, 1, 0].map fun j => if w.getLsbD (4 * k + j) then '1' else '0'))

/-- The value of one hexadecimal digit, lower case. -/
def hexValue? (c : Char) : Option Nat :=
  if '0' ≤ c ∧ c ≤ '9' then some (c.toNat - '0'.toNat)
  else if 'a' ≤ c ∧ c ≤ 'f' then some (c.toNat - 'a'.toNat + 10)
  else none

/-- A hexadecimal rendering read back (L1-9). -/
def parseHexDigits : List Char → Nat → Option Nat
  | [], acc => some acc
  | c :: cs, acc =>
    match hexValue? c with
    | some d => parseHexDigits cs (16 * acc + d)
    | none => none

/-- `0x` and exactly eight hexadecimal digits, read back to a word (R10, L1-9). -/
def parseHx (t : Token) : Option Word :=
  match t.toList with
  | '0' :: 'x' :: ds => if ds.length = 8 then (parseHexDigits ds 0).map (BitVec.ofNat 32) else none
  | _ => none

/-- The four bytes of a word in a byte order (R42). -/
def wordBytes (o : Endian) (w : Word) : List (BitVec 8) :=
  match o with
  | .little => [w.extractLsb' 0 8, w.extractLsb' 8 8, w.extractLsb' 16 8, w.extractLsb' 24 8]
  | .big => [w.extractLsb' 24 8, w.extractLsb' 16 8, w.extractLsb' 8 8, w.extractLsb' 0 8]

/-- The packed binary image, in the serializer's byte order, which the spec leaves open (R42). -/
def imageBytes (ws : List Word) : List (BitVec 8) := (ws.map (wordBytes Config.serEndian)).flatten

end Sys2Proof.Machine
end

