-- ==== Sys2Proof/Machine/Construct.lean ====
section
/-! DEFINITION. Construction, the block's reset, as operations of the external loader: what the outside world does to the
machine before its first request. They are not steps.
Sources: spec/70_reset_and_hazards.md R300 to R303; spec/20_memory.md R50; spec/10_state.md R34; spec/60_exceptions.md R281. -/

namespace Sys2Proof.Machine

/-- An engine of which nothing has been loaded, under the parameters it is built with (R27: they are fixed when the model is
built). -/
def State.unloaded (p : Params) : State where
  phase := .loading { optab := false, cat := false, regtab := false }
  engine := { optab := [], cat := [], regtab := [], params := p }
  requests := []
  responses := []

/-- A write by the loader: the tables are writable during construction and by nobody after (R281, R303). -/
def loadTables (s : State) (e : Engine) (note : Loaded → Loaded) : Answer :=
  match s.phase with
  | .loading done => .next { s with engine := e, phase := .loading (note done) }
  | .ready => .refused .alreadyConstructed

/-- Load the opcode/funct records into `OPTAB` (R302, step 1). -/
def loadOptab (t : Table Token FieldSpec) (s : State) : Answer :=
  loadTables s { s.engine with optab := t } fun done => { done with optab := true }

/-- Load the category membership into `CAT` (R302, step 1). -/
def loadCat (t : Table Token Category) (s : State) : Answer :=
  loadTables s { s.engine with cat := t } fun done => { done with cat := true }

/-- Load the register-name records into `REGTAB` (R302, step 2). -/
def loadRegtab (t : Table Token RegIdx) (s : State) : Answer :=
  loadTables s { s.engine with regtab := t } fun done => { done with regtab := true }

/-- All three tables are loaded (R302: "both must be complete before any request"). -/
def Loaded.complete (done : Loaded) : Bool := done.optab && done.cat && done.regtab

/-- Check the configuration and hand it to the dispatcher (R302, steps 3 and 4). A request made earlier has no meaning, so no
state with one is made ready (R50); a table not yet loaded (R302) and an ill-formed configuration (R34) are refused; a
constructed engine is not constructed again (R303). -/
def construct (s : State) : Answer :=
  match s.phase with
  | .loading done =>
    if s.requests ≠ [] then .refused .notConstructed
    else if !done.complete then .refused .incompleteConstruction
    else if engineWf s.engine then .next { s with phase := .ready }
    else .refused .illFormedConfiguration
  | .ready => .refused .alreadyConstructed

end Sys2Proof.Machine
end

