-- ==== Sys2Proof/Safety.lean ====
section
/-! DEFINITION. What claims about runs are stated in: when an engine holds a row, when a word comes from the tables, when a
response is one a well-formed engine can give, and the invariant every step keeps.
Sources: spec/10_state.md R31, R34; spec/30_encoding.md R77; spec/48_dispatcher.md R255, R259; spec/60_exceptions.md R273, R275. -/

namespace Sys2Proof.Machine

/-- The engine holds a mnemonic with this category and FieldSpec. -/
def HoldsRow (e : Engine) (mn : Token) (c : Category) (fs : FieldSpec) : Prop :=
  e.cat.get? mn = some c ∧ e.optab.get? mn = some fs

/-- The engine holds every real row of the default tables, whatever else it holds (R31). -/
def HoldsDefaultRows (e : Engine) : Prop :=
  ∀ row ∈ defaultRealCat, ∃ fs, defaultOptab.get? row.1 = some fs ∧ HoldsRow e row.1 row.2 fs

/-- The operand puts the bits `a` in a source slot: a register of that index, or a displacement of at most 31 (R106). -/
def SrcSlot (r : Resolved) (a : RegIdx) : Prop := r = .reg a ∨ ∃ n, n ≤ 31 ∧ r = .disp n ∧ a = BitVec.ofNat 5 n

/-- The word's opcode, funct3 and funct7 are those of an `OPTAB` entry of a mnemonic in `CAT` (R77). -/
def FromTable (e : Engine) (w : Word) : Prop :=
  ∃ mn c fs, HoldsRow e mn c fs ∧ c ≠ .P ∧ opcodeOf w = fs.opcode
    ∧ (∀ f, fs.funct3 = some f → funct3Of w = f) ∧ (∀ f, fs.funct7 = some f → funct7Of w = f)

/-- A response a well-formed engine can give: at most two words, each from the tables; or a failure that is neither
`StructuralEncodingError` nor `WrongInstructionType`, which do not come out of `dispatchLine` (R255, R259, R275). -/
def Response.Sound (e : Engine) : Response → Prop
  | .words ws => ws.length ≤ 2 ∧ ∀ w ∈ ws, FromTable e w
  | .error f => f.kind ≠ .structuralEncodingError ∧ f.kind ≠ .wrongInstructionType

/-- A constructed engine is well formed, and every response given is sound. -/
def State.Inv (s : State) : Prop :=
  (s.phase = .ready → engineWf s.engine = true) ∧ ∀ r ∈ s.responses, r.Sound s.engine

/-- A safe step: it does not fault. -/
def StepSafe (s : State) : Prop := ∀ r, step s ≠ .fault r

end Sys2Proof.Machine
end

