-- ==== Sys2Proof/Certificates/Slice0/Obligations.lean ====
section
/-! DEFINITION. The statements for the provers. Each docstring names the rule of spec/ it formalises. -/

open Sys2Proof Sys2Proof.Machine

/-! ### Decoding and encoding -/

/-- Words written out from the spec's encodings decode to the instructions they stand for, one or more per format (R121,
R122, R141, R152, R173, R182, R201, R211, each rule's own example). -/
def Obligations.KnownWordsDecode : Prop :=
  decodeWord 0b00000000110001011000010100110011#32 = .instr (.add (.reg 10) (.reg 11) (.reg 12))
  ∧ decodeWord 0b01000000011100110000001010110011#32 = .instr (.sub (.reg 5) (.reg 6) (.reg 7))
  ∧ decodeWord 0b11111111000000010000000100010011#32 = .instr (.addi (.reg 2) (.reg 2) (-16))
  ∧ decodeWord 0b00000000000001010000000011100111#32 = .instr (.jalr (.reg 1) (.reg 10) 0)
  ∧ decodeWord 0b11111110101100010010111000100011#32 = .instr (.sw (.reg 11) (.reg 2) (-4))
  ∧ decodeWord 0b11111110000001010001111011100011#32 = .instr (.bne (.reg 10) (.reg 0) (-4))
  ∧ decodeWord 0b00010010001101000101010100110111#32 = .instr (.lui (.reg 10) 74565)
  ∧ decodeWord 0b00000000000100000000000011101111#32 = .instr (.jal (.reg 1) 2048)

/-- Decode of encode, for requests: with the default `CAT` and `REGTAB` and any parameters, `SPELL_JLINK` being any spelling that
is no other mnemonic's, the request spelled from any of the 45 instructions, with every register, every displacement the
resolver accepts and every integer, decodes to that instruction (R33, R79, R102 to R105, R253, R254; R80: a decimal literal is
read as its integer). -/
def Obligations.SpelledRequestDecodes : Prop :=
  ∀ (e : Engine) (i : Instr), e.cat = defaultCat e.params.spellJlink → e.regtab = defaultRegtab →
    keysDistinct (defaultCat e.params.spellJlink) = true → i.resolved e.params = true →
    decodeRequest e (spell e.params i) = .ok (.instr i)

/-- Decode of encode, for words: the words of every real instruction whose operands its encoding admits decode to that
instruction with its operands as the word holds them, a displacement as the register of the same bits and an upper operand as
its unsigned field (R62 to R75). That the words of a pseudo-instruction decode to the real steps of its expansion, and not to
the pseudo-instruction whose rows R76 describes, is the model's choice, log entry 19. -/
def Obligations.EncodedWordsDecode : Prop :=
  ∀ i : Instr, i.encodable defaultParams = true →
    (encode i).map decodeWord = i.reread.map WordReading.instr

/-- Encode of decode: every one of the 2^32 words that the word decoder answers with an instruction is the one word of that
instruction, whose operands are all ones its encoding admits (R62 to R67, R76). The decoder answers real instructions only: that
a word which pseudo-instructions share (0x00000013 of `nop`, of `mv x0 x0` and of `addi x0 x0 0`) is read as the real one is the
model's choice, log entry 19. -/
def Obligations.DecodedWordReencodes : Prop :=
  ∀ (w : Word) (i : Instr), decodeWord w = .instr i →
    encode i = [w] ∧ i.encodable defaultParams = true

/-- Every field sits at the same bits in every layout that has it (R61). -/
def Obligations.FieldsSitAtTheirBits : Prop :=
  ∀ (f7 op : BitVec 7) (s2 s1 d : RegIdx) (f3 : BitVec 3) (i12 : BitVec 12) (b13 : BitVec 13) (u20 : BitVec 20)
    (j21 : BitVec 21),
    (opcodeOf (packR f7 s2 s1 f3 d op) = op ∧ opcodeOf (packI i12 s1 f3 d op) = op ∧ opcodeOf (packS i12 s2 s1 f3 op) = op
      ∧ opcodeOf (packB b13 s2 s1 f3 op) = op ∧ opcodeOf (packU u20 d op) = op ∧ opcodeOf (packJ j21 d op) = op)
    ∧ (rdOf (packR f7 s2 s1 f3 d op) = d ∧ rdOf (packI i12 s1 f3 d op) = d ∧ rdOf (packU u20 d op) = d
      ∧ rdOf (packJ j21 d op) = d)
    ∧ (funct3Of (packR f7 s2 s1 f3 d op) = f3 ∧ funct3Of (packI i12 s1 f3 d op) = f3
      ∧ funct3Of (packS i12 s2 s1 f3 op) = f3 ∧ funct3Of (packB b13 s2 s1 f3 op) = f3)
    ∧ (rs1Of (packR f7 s2 s1 f3 d op) = s1 ∧ rs1Of (packI i12 s1 f3 d op) = s1 ∧ rs1Of (packS i12 s2 s1 f3 op) = s1
      ∧ rs1Of (packB b13 s2 s1 f3 op) = s1)
    ∧ (rs2Of (packR f7 s2 s1 f3 d op) = s2 ∧ rs2Of (packS i12 s2 s1 f3 op) = s2 ∧ rs2Of (packB b13 s2 s1 f3 op) = s2)
    ∧ funct7Of (packR f7 s2 s1 f3 d op) = f7

/-- For every legal operand the immediate read back out of a word is the operand; for format U it is the operand modulo
2^20 (R75, where the spec marks the sentence as its own inference from R63 to R72). -/
def Obligations.ImmediatesReadBack : Prop :=
  ∀ (v : Int) (s2 s1 d : RegIdx) (f3 : BitVec 3) (op : BitVec 7) (a : JAlign),
    (-2048 ≤ v → v ≤ 2047 → immIOf (packI (immField v) s1 f3 d op) = v)
    ∧ (-2048 ≤ v → v ≤ 2047 → immSOf (packS (immField v) s2 s1 f3 op) = v)
    ∧ (-4096 ≤ v → v ≤ 4094 → v % 2 = 0 → offBOf (packB (branchField v) s2 s1 f3 op) = v)
    ∧ (-524288 ≤ v → v ≤ 1048575 → upperOf (packU (upperField v) d op) = v % 2 ^ 20)
    ∧ (-1048576 ≤ v → v ≤ 1048574 → v % jAlignBytes a = 0 → offJOf (packJ (jumpField v) d op) = v)

/-- The truncation law: on every integer it is the remainder modulo 4096, and on a legal immediate it is the immediate, or
the immediate plus 4096 if it is negative (R68). -/
def Obligations.TruncationLaw : Prop :=
  ∀ v : Int, trunc12 v = v % 4096 ∧ (0 ≤ v → v ≤ 2047 → trunc12 v = v)
    ∧ (-2048 ≤ v → v ≤ -1 → trunc12 v = v + 4096)
    ∧ (-2048 ≤ v → v ≤ 2047 → ((immField v).toNat : Int) = trunc12 v)

/-- The two renderings of a word: `bs` is 32 characters, string index 0 the most significant bit; `hx` is ten characters and
reads back to the same word (R10; the round trip of L1-9). -/
def Obligations.RenderingsReadBack : Prop :=
  ∀ w : Word, ((bs w).toList.length = 32
      ∧ ∀ i : Nat, i < 32 → (bs w).toList[i]? = some (if w.getLsbD (31 - i) then '1' else '0'))
    ∧ (hx w).toList.length = 10 ∧ parseHx (hx w) = some w

/-! ### Construction and the tables -/

/-- The state after construction with the default configuration: the three default tables, the eight named parameters at
their defaults (R8), no request in flight (R30). That no response has been given is the model's own interface (log entry 1). -/
def Obligations.ResetHoldsTheDefaultConfiguration : Prop :=
  State.reset.phase = .ready ∧ State.reset.engine.optab = defaultOptab
    ∧ State.reset.engine.cat = defaultRealCat ++ defaultPseudoCat "jlink"
    ∧ State.reset.engine.regtab = defaultRegtab
    ∧ State.reset.engine.params.zeroReg = 0 ∧ State.reset.engine.params.raReg = 1
    ∧ State.reset.engine.params.defaultLink = 0 ∧ State.reset.engine.params.dispMax = 8388607
    ∧ State.reset.engine.params.jAlign = .two ∧ State.reset.engine.params.liSplit = .compensated
    ∧ State.reset.engine.params.liWidth = 32 ∧ State.reset.engine.params.spellJlink = "jlink"
    ∧ State.reset.requests = [] ∧ State.reset.responses = []

/-- The default `REGTAB` has sixty-five distinct keys: the 32 names `x0` to `x31` map to their index, and the 33 aliases to the
index of their row (R32). -/
def Obligations.DefaultRegisterNames : Prop :=
  (∀ i : RegIdx, defaultRegtab.get? (regName i) = some i)
    ∧ (∀ row : Token × RegIdx, row ∈
        [("zero", 0), ("ra", 1), ("sp", 2), ("gp", 3), ("tp", 4), ("t0", 5), ("t1", 6), ("t2", 7), ("s0", 8),
        ("fp", 8), ("s1", 9), ("a0", 10), ("a1", 11), ("a2", 12), ("a3", 13), ("a4", 14), ("a5", 15), ("a6", 16),
        ("a7", 17), ("s2", 18), ("s3", 19), ("s4", 20), ("s5", 21), ("s6", 22), ("s7", 23), ("s8", 24), ("s9", 25),
        ("s10", 26), ("s11", 27), ("t3", 28), ("t4", 29), ("t5", 30), ("t6", 31)] →
      defaultRegtab.get? row.1 = some row.2)
    ∧ defaultRegtab.length = 65 ∧ (defaultRegtab.map Prod.fst).Nodup

/-- The default configuration is well formed and holds its 34 real rows (R31, R34). -/
def Obligations.DefaultConfigurationIsWellFormed : Prop :=
  engineWf defaultEngine = true ∧ HoldsDefaultRows defaultEngine ∧ defaultOptab.length = 34
    ∧ (defaultCat "jlink").length = 45

/-- `lookup` returns the FieldSpec of a key unchanged, and fails with `UnknownMnemonic` for any other mnemonic (R100). -/
def Obligations.LookupAnswersTheTable : Prop :=
  ∀ (e : Engine) (mn : Token),
    (∀ fs, e.optab.get? mn = some fs → lookup e mn = .ok fs)
    ∧ (e.optab.get? mn = none → lookup e mn = .err ⟨.unknownMnemonic, .token mn⟩)

/-- Construction. While it is under way the loader's three writes are accepted, each replacing its one table, noting that it is
loaded and changing nothing else; then, with no request made, a well-formed configuration makes the engine ready and changes nothing
else (R302 steps 1 to 4), and an ill-formed one is refused (R34). The model's choices in it: a load is accepted and replaces the
table even when that table is loaded already, and a construction with a table not yet loaded is refused, as `incompleteConstruction`
(log entry 21; R281 and R302 say only who writes the tables and that all must be loaded before a request); and beside R34's list, no
key of a table stands twice (log entry 28). -/
def Obligations.ConstructionChecksTheConfiguration : Prop :=
  ∀ (s : State) (done : Loaded), s.phase = .loading done →
    (∀ t, loadOptab t s
      = .next { s with engine := { s.engine with optab := t }, phase := .loading { done with optab := true } })
    ∧ (∀ t, loadCat t s
      = .next { s with engine := { s.engine with cat := t }, phase := .loading { done with cat := true } })
    ∧ (∀ t, loadRegtab t s
      = .next { s with engine := { s.engine with regtab := t }, phase := .loading { done with regtab := true } })
    ∧ (s.requests = [] →
      (done ≠ ⟨true, true, true⟩ → construct s = .refused .incompleteConstruction)
      ∧ (done = ⟨true, true, true⟩ → engineWf s.engine = true → construct s = .next { s with phase := .ready })
      ∧ (done = ⟨true, true, true⟩ → engineWf s.engine = false → construct s = .refused .illFormedConfiguration))

/-- A constructed engine's tables never change: no load and no second construction is accepted, and no step changes the
tables, the parameters or the phase (R303). -/
def Obligations.ConstructedTablesNeverChange : Prop :=
  (∀ (s : State) (o : Table Token FieldSpec) (c : Table Token Category) (r : Table Token RegIdx), s.phase = .ready →
    loadOptab o s = .refused .alreadyConstructed ∧ loadCat c s = .refused .alreadyConstructed
      ∧ loadRegtab r s = .refused .alreadyConstructed ∧ construct s = .refused .alreadyConstructed)
  ∧ ∀ s t : State, step s = .next t → t.engine = s.engine ∧ t.phase = s.phase

/-- A request made before construction is complete has no meaning: making it is refused, and in a state that holds one the step
and the construction are refused, so that it is never answered; on a ready engine a request is accepted after those already
made, and nothing else changes (R50, R302, U16). -/
def Obligations.RequestBeforeConstructionIsRefused : Prop :=
  ∀ (s : State) (q : Request),
    (s.phase ≠ .ready → submit q s = .refused .notConstructed)
    ∧ (s.phase ≠ .ready → s.requests ≠ [] →
      step s = .refused .notConstructed ∧ construct s = .refused .notConstructed)
    ∧ (s.phase = .ready → submit q s = .next { s with requests := s.requests ++ [q] })

/-! ### Operands -/

/-- A bracketed literal: the resolver answers a displacement within `DISP_MAX` and `OperandRangeError` above it (R102). When the
inside is not one or more decimal digits the token is no such literal: the resolver goes on to the other cases, so that one that is
no key is an `UnknownRegister` (R105, R272), and a request with one among its operand tokens is malformed (R102, R253). -/
def Obligations.BracketedLiteralResolves : Prop :=
  ∀ (e : Engine) (ds : List Char),
    (ds ≠ [] → ds.all Char.isDigit = true →
      (Nat.ofDigitChars 10 ds 0 ≤ e.params.dispMax →
        resolve e (String.ofList ('[' :: ds ++ [']'])) = .ok (.disp (Nat.ofDigitChars 10 ds 0)))
      ∧ (e.params.dispMax < Nat.ofDigitChars 10 ds 0 →
        resolve e (String.ofList ('[' :: ds ++ [']']))
          = .err ⟨.operandRangeError, .token (String.ofList ('[' :: ds ++ [']']))⟩))
    ∧ (ds = [] ∨ ds.all Char.isDigit = false →
      (e.regtab.get? (String.ofList ('[' :: ds ++ [']'])) = none →
        resolve e (String.ofList ('[' :: ds ++ [']']))
          = .err ⟨.unknownRegister, .token (String.ofList ('[' :: ds ++ [']']))⟩)
      ∧ ∀ (s : State) (mn : Token) (toks : List Token) (rest : List Request) (c : Category), s.phase = .ready →
        s.requests = (mn :: toks) :: rest → s.engine.cat.get? mn = some c →
        String.ofList ('[' :: ds ++ [']']) ∈ toks → step s = .refused .malformedRequest)

/-- The resolver on any token but brackets around decimal digits, in order: a key of `REGTAB`; else `x` and one or two decimal digits of value at most
31; else `UnknownRegister` (R105, its cases R103 and R104). That this makes `x00` to `x09` resolve even with the default table,
of which R104 says that its rule never fires, is the model's reading, log entry 11. -/
def Obligations.RegisterNameResolves : Prop :=
  ∀ (e : Engine) (t : Token),
    ¬ (∃ ds, t = String.ofList ('[' :: ds ++ [']']) ∧ ds ≠ [] ∧ ds.all Char.isDigit = true) →
    (∀ i, e.regtab.get? t = some i → resolve e t = .ok (.reg i))
    ∧ (e.regtab.get? t = none →
      (∀ ds n, t = String.ofList ('x' :: ds) → ds ≠ [] → ds.length ≤ 2 → ds.all Char.isDigit = true →
        Nat.ofDigitChars 10 ds 0 = n → n ≤ 31 → resolve e t = .ok (.reg (BitVec.ofNat 5 n)))
      ∧ (¬ (∃ ds, t = String.ofList ('x' :: ds) ∧ ds ≠ [] ∧ ds.length ≤ 2 ∧ ds.all Char.isDigit = true
            ∧ Nat.ofDigitChars 10 ds 0 ≤ 31) →
        resolve e t = .err ⟨.unknownRegister, .token t⟩))

/-- A source slot packs a register's index, or a displacement of at most 31; above that it raises `OperandRangeError` (R106).
A destination slot packs a register's index and raises `OperandRangeError` for every displacement (R107). -/
def Obligations.SlotsTakeTheirOperands : Prop :=
  (∀ i : RegIdx, srcField (.reg i) = .ok i ∧ dstField (.reg i) = .ok i)
  ∧ (∀ n : Nat, n ≤ 31 → srcField (.disp n) = .ok (BitVec.ofNat 5 n))
  ∧ (∀ n : Nat, 31 < n → srcField (.disp n) = .err ⟨.operandRangeError, .value n⟩)
  ∧ (∀ n : Nat, dstField (.disp n) = .err ⟨.operandRangeError, .value n⟩)

/-- Each encoder, handed a mnemonic whose category is not its format, or that has none, raises `WrongInstructionType` with
the mnemonic, whatever the operands (R273). -/
def Obligations.EncodersRejectForeignMnemonics : Prop :=
  ∀ (e : Engine) (mn : Token) (a b c : Resolved) (v : Int),
    (e.cat.get? mn ≠ some .R → encR e mn a b c = .err ⟨.wrongInstructionType, .token mn⟩)
    ∧ (e.cat.get? mn ≠ some .I → encI e mn a b v = .err ⟨.wrongInstructionType, .token mn⟩)
    ∧ (e.cat.get? mn ≠ some .S → encS e mn a b v = .err ⟨.wrongInstructionType, .token mn⟩)
    ∧ (e.cat.get? mn ≠ some .B → encB e mn a b v = .err ⟨.wrongInstructionType, .token mn⟩)
    ∧ (e.cat.get? mn ≠ some .U → encU e mn a v = .err ⟨.wrongInstructionType, .token mn⟩)
    ∧ (e.cat.get? mn ≠ some .J → encJ e mn a v = .err ⟨.wrongInstructionType, .token mn⟩)

/-! ### The real instructions: each answers a next state with exactly its word, or with its failure -/

/-- One register-register mnemonic with its two fixed fields: the failure of a foreign category, then of a missing row, then
the word, and the failures of the operands in the order tested (R120). -/
def RegRegEncodes (mn : Token) (f7 : BitVec 7) (f3 : BitVec 3) (ins : Resolved → Resolved → Resolved → Instr) : Prop :=
  ∀ (s : State) (rd rs1 rs2 : Resolved),
    (s.engine.cat.get? mn ≠ some .R →
      exec (ins rd rs1 rs2) s = .next (s.respond (.error ⟨.wrongInstructionType, .token mn⟩)))
    ∧ (s.engine.cat.get? mn = some .R → s.engine.optab.get? mn = none →
      exec (ins rd rs1 rs2) s = .next (s.respond (.error ⟨.unknownMnemonic, .token mn⟩)))
    ∧ (HoldsRow s.engine mn .R ⟨0b0110011#7, some f3, some f7⟩ →
      (∀ d a b, rd = .reg d → SrcSlot rs1 a → SrcSlot rs2 b →
        exec (ins rd rs1 rs2) s = .next (s.respond (.words [f7 ++ b ++ a ++ f3 ++ d ++ 0b0110011#7])))
      ∧ (∀ n : Nat, rd = .disp n →
        exec (ins rd rs1 rs2) s = .next (s.respond (.error ⟨.operandRangeError, .value n⟩)))
      ∧ (∀ (d : RegIdx) (n : Nat), rd = .reg d → rs1 = .disp n → 31 < n →
        exec (ins rd rs1 rs2) s = .next (s.respond (.error ⟨.operandRangeError, .value n⟩)))
      ∧ (∀ (d a : RegIdx) (n : Nat), rd = .reg d → SrcSlot rs1 a → rs2 = .disp n → 31 < n →
        exec (ins rd rs1 rs2) s = .next (s.respond (.error ⟨.operandRangeError, .value n⟩))))

/-- The ten register-register instructions (R121 to R130). -/
def Obligations.RegisterRegisterInstructionsEncode : Prop :=
  RegRegEncodes "add" 0b0000000 0b000 .add ∧ RegRegEncodes "sub" 0b0100000 0b000 .sub
  ∧ RegRegEncodes "sll" 0b0000000 0b001 .sll ∧ RegRegEncodes "slt" 0b0000000 0b010 .slt
  ∧ RegRegEncodes "sltu" 0b0000000 0b011 .sltu ∧ RegRegEncodes "xor" 0b0000000 0b100 .xor
  ∧ RegRegEncodes "srl" 0b0000000 0b101 .srl ∧ RegRegEncodes "sra" 0b0100000 0b101 .sra
  ∧ RegRegEncodes "or" 0b0000000 0b110 .or ∧ RegRegEncodes "and" 0b0000000 0b111 .and

/-- One immediate-format mnemonic with its two fixed fields: the failures of a foreign category and of a missing row, then
the word, and the failures of the operands in the order tested (R140). The 12-bit field is `imm mod 4096`. -/
def ImmediateEncodes (mn : Token) (op : BitVec 7) (f3 : BitVec 3) (ins : Resolved → Resolved → Int → Instr) : Prop :=
  ∀ (s : State) (rd rs1 : Resolved) (imm : Int),
    (s.engine.cat.get? mn ≠ some .I →
      exec (ins rd rs1 imm) s = .next (s.respond (.error ⟨.wrongInstructionType, .token mn⟩)))
    ∧ (s.engine.cat.get? mn = some .I → s.engine.optab.get? mn = none →
      exec (ins rd rs1 imm) s = .next (s.respond (.error ⟨.unknownMnemonic, .token mn⟩)))
    ∧ (HoldsRow s.engine mn .I ⟨op, some f3, none⟩ →
      (∀ d a, rd = .reg d → SrcSlot rs1 a → -2048 ≤ imm → imm ≤ 2047 →
        exec (ins rd rs1 imm) s
          = .next (s.respond (.words [BitVec.ofInt 12 (imm % 4096) ++ a ++ f3 ++ d ++ op])))
      ∧ (∀ n : Nat, rd = .disp n →
        exec (ins rd rs1 imm) s = .next (s.respond (.error ⟨.operandRangeError, .value n⟩)))
      ∧ (∀ (d : RegIdx) (n : Nat), rd = .reg d → rs1 = .disp n → 31 < n →
        exec (ins rd rs1 imm) s = .next (s.respond (.error ⟨.operandRangeError, .value n⟩)))
      ∧ (∀ d a, rd = .reg d → SrcSlot rs1 a → imm < -2048 ∨ 2047 < imm →
        exec (ins rd rs1 imm) s = .next (s.respond (.error ⟨.operandRangeError, .value imm⟩))))

/-- The twelve immediate-format instructions (R141 to R152). -/
def Obligations.ImmediateInstructionsEncode : Prop :=
  ImmediateEncodes "addi" 0b0010011 0b000 .addi ∧ ImmediateEncodes "slti" 0b0010011 0b010 .slti
  ∧ ImmediateEncodes "sltiu" 0b0010011 0b011 .sltiu ∧ ImmediateEncodes "xori" 0b0010011 0b100 .xori
  ∧ ImmediateEncodes "ori" 0b0010011 0b110 .ori ∧ ImmediateEncodes "andi" 0b0010011 0b111 .andi
  ∧ ImmediateEncodes "lb" 0b0000011 0b000 .lb ∧ ImmediateEncodes "lh" 0b0000011 0b001 .lh
  ∧ ImmediateEncodes "lw" 0b0000011 0b010 .lw ∧ ImmediateEncodes "lbu" 0b0000011 0b100 .lbu
  ∧ ImmediateEncodes "lhu" 0b0000011 0b101 .lhu ∧ ImmediateEncodes "jalr" 0b1100111 0b000 .jalr

/-- One store with its funct3: the failures of a foreign category and of a missing row, then the word, its immediate split,
and the failures of the operands in the order tested (R170). -/
def StoreEncodes (mn : Token) (f3 : BitVec 3) (ins : Resolved → Resolved → Int → Instr) : Prop :=
  ∀ (s : State) (rs2 rs1 : Resolved) (imm : Int),
    (s.engine.cat.get? mn ≠ some .S →
      exec (ins rs2 rs1 imm) s = .next (s.respond (.error ⟨.wrongInstructionType, .token mn⟩)))
    ∧ (s.engine.cat.get? mn = some .S → s.engine.optab.get? mn = none →
      exec (ins rs2 rs1 imm) s = .next (s.respond (.error ⟨.unknownMnemonic, .token mn⟩)))
    ∧ (HoldsRow s.engine mn .S ⟨0b0100011#7, some f3, none⟩ →
      (∀ b a, SrcSlot rs2 b → SrcSlot rs1 a → -2048 ≤ imm → imm ≤ 2047 →
        exec (ins rs2 rs1 imm) s
          = .next (s.respond (.words
              [BitVec.ofInt 7 (imm % 4096 / 32) ++ b ++ a ++ f3 ++ BitVec.ofInt 5 (imm % 32) ++ 0b0100011#7])))
      ∧ (∀ n : Nat, rs2 = .disp n → 31 < n →
        exec (ins rs2 rs1 imm) s = .next (s.respond (.error ⟨.operandRangeError, .value n⟩)))
      ∧ (∀ (b : RegIdx) (n : Nat), SrcSlot rs2 b → rs1 = .disp n → 31 < n →
        exec (ins rs2 rs1 imm) s = .next (s.respond (.error ⟨.operandRangeError, .value n⟩)))
      ∧ (∀ b a, SrcSlot rs2 b → SrcSlot rs1 a → imm < -2048 ∨ 2047 < imm →
        exec (ins rs2 rs1 imm) s = .next (s.respond (.error ⟨.operandRangeError, .value imm⟩))))

/-- The three stores (R171 to R173). -/
def Obligations.StoreInstructionsEncode : Prop :=
  StoreEncodes "sb" 0b000 .sb ∧ StoreEncodes "sh" 0b001 .sh ∧ StoreEncodes "sw" 0b010 .sw

/-- One branch with its funct3: the failures of a foreign category and of a missing row, then the word, its offset split and
reordered, and the failures of the operands in the order tested (R180). Bit `k` of the offset is `off / 2^k mod 2`. -/
def BranchEncodes (mn : Token) (f3 : BitVec 3) (ins : Resolved → Resolved → Int → Instr) : Prop :=
  ∀ (s : State) (rs1 rs2 : Resolved) (off : Int),
    (s.engine.cat.get? mn ≠ some .B →
      exec (ins rs1 rs2 off) s = .next (s.respond (.error ⟨.wrongInstructionType, .token mn⟩)))
    ∧ (s.engine.cat.get? mn = some .B → s.engine.optab.get? mn = none →
      exec (ins rs1 rs2 off) s = .next (s.respond (.error ⟨.unknownMnemonic, .token mn⟩)))
    ∧ (HoldsRow s.engine mn .B ⟨0b1100011#7, some f3, none⟩ →
      (∀ a b, SrcSlot rs1 a → SrcSlot rs2 b → -4096 ≤ off → off ≤ 4094 → off % 2 = 0 →
        exec (ins rs1 rs2 off) s
          = .next (s.respond (.words
              [BitVec.ofInt 1 (off / 4096) ++ BitVec.ofInt 6 (off / 32) ++ b ++ a ++ f3 ++ BitVec.ofInt 4 (off / 2)
                ++ BitVec.ofInt 1 (off / 2048) ++ 0b1100011#7])))
      ∧ (∀ n : Nat, rs1 = .disp n → 31 < n →
        exec (ins rs1 rs2 off) s = .next (s.respond (.error ⟨.operandRangeError, .value n⟩)))
      ∧ (∀ (a : RegIdx) (n : Nat), SrcSlot rs1 a → rs2 = .disp n → 31 < n →
        exec (ins rs1 rs2 off) s = .next (s.respond (.error ⟨.operandRangeError, .value n⟩)))
      ∧ (∀ a b, SrcSlot rs1 a → SrcSlot rs2 b → off < -4096 ∨ 4094 < off ∨ off % 2 ≠ 0 →
        exec (ins rs1 rs2 off) s = .next (s.respond (.error ⟨.operandRangeError, .value off⟩))))

/-- The six branches (R181 to R186). -/
def Obligations.BranchInstructionsEncode : Prop :=
  BranchEncodes "beq" 0b000 .beq ∧ BranchEncodes "bne" 0b001 .bne ∧ BranchEncodes "blt" 0b100 .blt
  ∧ BranchEncodes "bge" 0b101 .bge ∧ BranchEncodes "bltu" 0b110 .bltu ∧ BranchEncodes "bgeu" 0b111 .bgeu

/-- One upper-immediate instruction with its opcode: the failures of a foreign category and of a missing row, then the word,
and the failures of the operands in the order tested (R200). -/
def UpperEncodes (mn : Token) (op : BitVec 7) (ins : Resolved → Int → Instr) : Prop :=
  ∀ (s : State) (rd : Resolved) (u : Int),
    (s.engine.cat.get? mn ≠ some .U →
      exec (ins rd u) s = .next (s.respond (.error ⟨.wrongInstructionType, .token mn⟩)))
    ∧ (s.engine.cat.get? mn = some .U → s.engine.optab.get? mn = none →
      exec (ins rd u) s = .next (s.respond (.error ⟨.unknownMnemonic, .token mn⟩)))
    ∧ (HoldsRow s.engine mn .U ⟨op, none, none⟩ →
      (∀ d, rd = .reg d → -524288 ≤ u → u ≤ 1048575 →
        exec (ins rd u) s = .next (s.respond (.words [BitVec.ofInt 20 (u % 1048576) ++ d ++ op])))
      ∧ (∀ n : Nat, rd = .disp n → exec (ins rd u) s = .next (s.respond (.error ⟨.operandRangeError, .value n⟩)))
      ∧ (∀ d, rd = .reg d → u < -524288 ∨ 1048575 < u →
        exec (ins rd u) s = .next (s.respond (.error ⟨.operandRangeError, .value u⟩))))

/-- The two upper-immediate instructions (R201, R202). -/
def Obligations.UpperImmediateInstructionsEncode : Prop :=
  UpperEncodes "lui" 0b0110111 .lui ∧ UpperEncodes "auipc" 0b0010111 .auipc

/-- The jump: the failures of a foreign category and of a missing row, then the word, its offset reordered, and the failures
of the operands in the order tested, under either `J_ALIGN` (R210, R211). -/
def Obligations.JumpInstructionEncodes : Prop :=
  ∀ (s : State) (rd : Resolved) (off : Int),
    (s.engine.cat.get? "jal" ≠ some .J →
      exec (.jal rd off) s = .next (s.respond (.error ⟨.wrongInstructionType, .token "jal"⟩)))
    ∧ (s.engine.cat.get? "jal" = some .J → s.engine.optab.get? "jal" = none →
      exec (.jal rd off) s = .next (s.respond (.error ⟨.unknownMnemonic, .token "jal"⟩)))
    ∧ (HoldsRow s.engine "jal" .J ⟨0b1101111#7, none, none⟩ →
      (∀ d, rd = .reg d → -1048576 ≤ off → off ≤ 1048574 → off % jAlignBytes s.engine.params.jAlign = 0 →
        exec (.jal rd off) s
          = .next (s.respond (.words
              [BitVec.ofInt 1 (off / 1048576) ++ BitVec.ofInt 10 (off / 2) ++ BitVec.ofInt 1 (off / 2048)
                ++ BitVec.ofInt 8 (off / 4096) ++ d ++ 0b1101111#7])))
      ∧ (∀ n : Nat, rd = .disp n → exec (.jal rd off) s = .next (s.respond (.error ⟨.operandRangeError, .value n⟩)))
      ∧ (∀ d, rd = .reg d → off < -1048576 ∨ 1048574 < off ∨ off % jAlignBytes s.engine.params.jAlign ≠ 0 →
        exec (.jal rd off) s = .next (s.respond (.error ⟨.operandRangeError, .value off⟩))))

/-! ### The pseudo-instructions -/

/-- `li`: one word when the immediate fits twelve bits; else two, the upper part and the lower part of the immediate modulo
2^32, split by `LI_SPLIT`; outside -2^31..2^32-1 a failure that no operand check precedes; a displacement as destination
fails (R221, at `LI_WIDTH` 32). -/
def Obligations.LoadImmediateEncodes : Prop :=
  ∀ (s : State) (rd : Resolved) (imm : Int), s.engine.params.liWidth = 32 →
    HoldsRow s.engine "lui" .U ⟨0b0110111#7, none, none⟩ →
    HoldsRow s.engine "addi" .I ⟨0b0010011#7, some 0b000#3, none⟩ →
    (∀ d, rd = .reg d → -2048 ≤ imm → imm ≤ 2047 →
      exec (.li rd imm) s
        = .next (s.respond (.words
            [BitVec.ofInt 12 (imm % 4096) ++ s.engine.params.zeroReg ++ 0b000#3 ++ d ++ 0b0010011#7])))
    ∧ (∀ d v, rd = .reg d → imm < -2048 ∨ 2047 < imm → -2147483648 ≤ imm → imm ≤ 4294967295 → v = imm % 4294967296 →
      (s.engine.params.liSplit = .compensated →
        exec (.li rd imm) s
          = .next (s.respond (.words
              [BitVec.ofInt 20 ((v + 2048) / 4096 % 1048576) ++ d ++ 0b0110111#7,
               BitVec.ofInt 12 (v % 4096) ++ d ++ 0b000#3 ++ d ++ 0b0010011#7])))
      ∧ (s.engine.params.liSplit = .plain → v % 4096 < 2048 →
        exec (.li rd imm) s
          = .next (s.respond (.words
              [BitVec.ofInt 20 (v / 4096) ++ d ++ 0b0110111#7,
               BitVec.ofInt 12 (v % 4096) ++ d ++ 0b000#3 ++ d ++ 0b0010011#7])))
      ∧ (s.engine.params.liSplit = .plain → 2048 ≤ v % 4096 →
        exec (.li rd imm) s = .next (s.respond (.error ⟨.operandRangeError, .value (v % 4096)⟩))))
    ∧ (imm < -2147483648 ∨ 4294967295 < imm →
      exec (.li rd imm) s = .next (s.respond (.error ⟨.operandRangeError, .value imm⟩)))
    ∧ (∀ n : Nat, rd = .disp n → -2147483648 ≤ imm → imm ≤ 4294967295 →
      exec (.li rd imm) s = .next (s.respond (.error ⟨.operandRangeError, .value n⟩)))

/-- The compensated split adds up: `hi` and `lo` are in the ranges their encoders accept, and `(hi << 12) + lo` is the
immediate modulo 2^32 (R221). -/
def Obligations.LoadImmediateSplitAddsUp : Prop :=
  ∀ imm : Int, -2048 ≤ liLow (imm % 2 ^ 32) ∧ liLow (imm % 2 ^ 32) ≤ 2047
    ∧ 0 ≤ liHigh (imm % 2 ^ 32) ∧ liHigh (imm % 2 ^ 32) ≤ 1048575
    ∧ (shl (liHigh (imm % 2 ^ 32)) 12 + liLow (imm % 2 ^ 32)) % 2 ^ 32 = imm % 2 ^ 32

/-- The ten pseudo-instructions of fixed length do exactly what the one real instruction of their expansion does, in every
state and on every operand, failures included (R222 to R231). -/
def Obligations.PseudoInstructionsAreTheirExpansions : Prop :=
  ∀ (s : State) (a b : Resolved) (v : Int),
    exec (.mv a b) s = exec (.addi a b 0) s
    ∧ exec .nop s = exec (.addi (.reg s.engine.params.zeroReg) (.reg s.engine.params.zeroReg) 0) s
    ∧ exec (.not a b) s = exec (.xori a b (-1)) s
    ∧ exec (.neg a b) s = exec (.sub a (.reg s.engine.params.zeroReg) b) s
    ∧ exec (.la a v) s = exec (.auipc a v) s
    ∧ exec (.j v) s = exec (.jal (.reg s.engine.params.defaultLink) v) s
    ∧ exec (.jlink a v) s = exec (.jal a v) s
    ∧ exec .ret s = exec (.jalr (.reg s.engine.params.zeroReg) (.reg s.engine.params.raReg) 0) s
    ∧ exec (.bgt a b v) s = exec (.blt b a v) s
    ∧ exec (.ble a b v) s = exec (.bge b a v) s

/-- The words of the ten pseudo-instructions of fixed length, on every operand that their encodings admit (R222 to R231). -/
def Obligations.PseudoInstructionsComplete : Prop :=
  ∀ (s : State) (rd r1 r2 : Resolved) (d a b : RegIdx) (v : Int), rd = .reg d → SrcSlot r1 a → SrcSlot r2 b →
    (HoldsRow s.engine "addi" .I ⟨0b0010011#7, some 0b000#3, none⟩ →
      exec (.mv rd r1) s = .next (s.respond (.words [0#12 ++ a ++ 0b000#3 ++ d ++ 0b0010011#7]))
      ∧ exec .nop s
        = .next (s.respond (.words
            [0#12 ++ s.engine.params.zeroReg ++ 0b000#3 ++ s.engine.params.zeroReg ++ 0b0010011#7])))
    ∧ (HoldsRow s.engine "xori" .I ⟨0b0010011#7, some 0b100#3, none⟩ →
      exec (.not rd r1) s = .next (s.respond (.words [0xFFF#12 ++ a ++ 0b100#3 ++ d ++ 0b0010011#7])))
    ∧ (HoldsRow s.engine "sub" .R ⟨0b0110011#7, some 0b000#3, some 0b0100000#7⟩ →
      exec (.neg rd r1) s
        = .next (s.respond (.words
            [0b0100000#7 ++ a ++ s.engine.params.zeroReg ++ 0b000#3 ++ d ++ 0b0110011#7])))
    ∧ (HoldsRow s.engine "auipc" .U ⟨0b0010111#7, none, none⟩ → -524288 ≤ v → v ≤ 1048575 →
      exec (.la rd v) s = .next (s.respond (.words [BitVec.ofInt 20 (v % 1048576) ++ d ++ 0b0010111#7])))
    ∧ (HoldsRow s.engine "jal" .J ⟨0b1101111#7, none, none⟩ → -1048576 ≤ v → v ≤ 1048574 →
        v % jAlignBytes s.engine.params.jAlign = 0 →
      exec (.j v) s
        = .next (s.respond (.words
            [BitVec.ofInt 1 (v / 1048576) ++ BitVec.ofInt 10 (v / 2) ++ BitVec.ofInt 1 (v / 2048)
              ++ BitVec.ofInt 8 (v / 4096) ++ s.engine.params.defaultLink ++ 0b1101111#7]))
      ∧ exec (.jlink rd v) s
        = .next (s.respond (.words
            [BitVec.ofInt 1 (v / 1048576) ++ BitVec.ofInt 10 (v / 2) ++ BitVec.ofInt 1 (v / 2048)
              ++ BitVec.ofInt 8 (v / 4096) ++ d ++ 0b1101111#7])))
    ∧ (HoldsRow s.engine "jalr" .I ⟨0b1100111#7, some 0b000#3, none⟩ →
      exec .ret s
        = .next (s.respond (.words
            [0#12 ++ s.engine.params.raReg ++ 0b000#3 ++ s.engine.params.zeroReg ++ 0b1100111#7])))
    ∧ (HoldsRow s.engine "blt" .B ⟨0b1100011#7, some 0b100#3, none⟩ → -4096 ≤ v → v ≤ 4094 → v % 2 = 0 →
      exec (.bgt r1 r2 v) s
        = .next (s.respond (.words
            [BitVec.ofInt 1 (v / 4096) ++ BitVec.ofInt 6 (v / 32) ++ a ++ b ++ 0b100#3 ++ BitVec.ofInt 4 (v / 2)
              ++ BitVec.ofInt 1 (v / 2048) ++ 0b1100011#7])))
    ∧ (HoldsRow s.engine "bge" .B ⟨0b1100011#7, some 0b101#3, none⟩ → -4096 ≤ v → v ≤ 4094 → v % 2 = 0 →
      exec (.ble r1 r2 v) s
        = .next (s.respond (.words
            [BitVec.ofInt 1 (v / 4096) ++ BitVec.ofInt 6 (v / 32) ++ a ++ b ++ 0b101#3 ++ BitVec.ofInt 4 (v / 2)
              ++ BitVec.ofInt 1 (v / 2048) ++ 0b1100011#7])))

/-! ### All instructions -/

/-- The frame of every instruction, and that it completes: in every state and on every operand it answers a next state that
is the old one with exactly one response more, and that response depends on the instruction and the engine alone (R20, R47,
R278). -/
def Obligations.InstructionsOnlyRespond : Prop :=
  ∀ (i : Instr) (s : State), ∃ r, exec i s = .next (s.respond r) ∧
    ∀ s' : State, s'.engine = s.engine → exec i s' = .next (s'.respond r)

/-- Over the default rows, an instruction has words exactly when every operand is one its encoding admits, and otherwise it
raises `OperandRangeError` with a value (R274 (b) to (g)). For `li` at an `LI_WIDTH` other than 32 the range, the modulus and the
split are the model's reading, log entry 9. -/
def Obligations.WordsExactlyWhenEncodable : Prop :=
  ∀ (i : Instr) (s : State), HoldsDefaultRows s.engine →
    (i.encodable s.engine.params = true → ∃ ws, exec i s = .next (s.respond (.words ws)))
    ∧ (i.encodable s.engine.params = false →
      ∃ v, exec i s = .next (s.respond (.error ⟨.operandRangeError, .value v⟩)))

/-- The machine's words, packed from the tables it holds, are the words of the opcode table, for every instruction and every
operand its encoding admits (R31, R62 to R72, R221 to R231). -/
def Obligations.MachineWordsAreTableWords : Prop :=
  ∀ (i : Instr) (s : State), HoldsDefaultRows s.engine → s.engine.params = defaultParams →
    i.encodable defaultParams = true → exec i s = .next (s.respond (.words (encode i)))

/-! ### The dispatcher -/

/-- A step runs the decoded instruction: when the next request of a constructed engine decodes to `i`, the step is the
meaning of `i` in the state from which that request has been taken. -/
def Obligations.StepRunsTheDecodedInstruction : Prop :=
  ∀ (s : State) (q : Request) (rest : List Request) (i : Instr), s.phase = .ready → s.requests = q :: rest →
    decodeRequest s.engine q = .ok (.instr i) → step s = exec i (s.withRequests rest)

/-- A step is the spec's `dispatchLine` pseudocode on the next request, for every request and every configuration, its outcome
handed to the caller (R256). `dispatchLine` itself rests on two of the model's readings: over an ill-formed configuration the
encoder of a step is chosen by its operands (log entry 14), and a mnemonic of category `P` that is none of the eleven has no request
shape, so that a request for it is malformed (log entry 15). -/
def Obligations.StepRefinesDispatchLine : Prop :=
  ∀ (s : State) (q : Request) (rest : List Request), s.phase = .ready → s.requests = q :: rest →
    step s = deliver (s.withRequests rest) (dispatchLine s.engine q)

/-- The empty request is answered with the empty sequence of words (R251). -/
def Obligations.EmptyRequestHasNoWords : Prop :=
  ∀ (s : State) (rest : List Request), s.phase = .ready → s.requests = [] :: rest →
    step s = .next ((s.withRequests rest).respond (.words []))

/-- The model's choice (log entry 2): with no request made, a step changes nothing. -/
def Obligations.IdleStepChangesNothing : Prop :=
  ∀ s : State, s.requests = [] → step s = .next s

/-- A request whose first token no category table holds fails with `UnknownMnemonic`, whatever its operand tokens are (R252). -/
def Obligations.UnknownMnemonicFailsFirst : Prop :=
  ∀ (s : State) (mn : Token) (toks : List Token) (rest : List Request), s.phase = .ready →
    s.requests = (mn :: toks) :: rest → s.engine.cat.get? mn = none →
    step s = .next ((s.withRequests rest).respond (.error ⟨.unknownMnemonic, .token mn⟩))

/-- The shape check decides the refusal: a classified request is refused as malformed exactly when its operand tokens match no
request shape of its mnemonic (R253). That a mnemonic of category `P` that is none of the eleven has no shape is the model's
reading, log entry 15. -/
def Obligations.MalformedExactlyWhenShapeFails : Prop :=
  ∀ (s : State) (mn : Token) (toks : List Token) (rest : List Request) (c : Category),
    s.phase = .ready → s.requests = (mn :: toks) :: rest → s.engine.cat.get? mn = some c →
    (step s = .refused .malformedRequest ↔
      ∀ shape, shapeOf s.engine.params c mn = some shape → shapeOk shape toks = false)

/-- Operands are resolved left to right, all before any word is packed: the first token whose resolution fails decides the
outcome, whatever stands after it (R254). -/
def Obligations.FirstUnresolvedOperandDecides : Prop :=
  ∀ (s : State) (mn t : Token) (pre post : List Token) (rest : List Request) (c : Category)
    (kpre kpost : List OperandKind) (k : OperandKind) (ops : List Operand) (f : Failure),
    s.phase = .ready → s.requests = (mn :: (pre ++ t :: post)) :: rest → s.engine.cat.get? mn = some c →
    shapeOf s.engine.params c mn = some (kpre ++ k :: kpost) → kpre.length = pre.length →
    shapeOk (kpre ++ k :: kpost) (pre ++ t :: post) = true →
    readOperands s.engine kpre pre = .ok ops → readOperand s.engine k t = .err f →
    step s = .next ((s.withRequests rest).respond (.error f))

/-- A real request that matches its shape (R253) goes to the encoder its category names, its operands in request order, whatever
the mnemonic: those that a configuration has added to the tables included (R255). -/
def Obligations.RealRequestGoesToItsEncoder : Prop :=
  ∀ (s : State) (mn t1 t2 t3 : Token) (rest : List Request) (a b c : Resolved) (v : Int), s.phase = .ready →
    (s.requests = [mn, t1, t2, t3] :: rest → s.engine.cat.get? mn = some .R →
      shapeOk [.reg, .reg, .reg] [t1, t2, t3] = true → resolve s.engine t1 = .ok a →
      resolve s.engine t2 = .ok b → resolve s.engine t3 = .ok c →
      step s = deliver (s.withRequests rest) ((encR s.engine mn a b c).bind fun w => .ok [w]))
    ∧ (s.requests = [mn, t1, t2, t3] :: rest → s.engine.cat.get? mn = some .I →
      shapeOk [.reg, .reg, .int] [t1, t2, t3] = true → resolve s.engine t1 = .ok a →
      resolve s.engine t2 = .ok b → integer? t3 = some v →
      step s = deliver (s.withRequests rest) ((encI s.engine mn a b v).bind fun w => .ok [w]))
    ∧ (s.requests = [mn, t1, t2, t3] :: rest → s.engine.cat.get? mn = some .S →
      shapeOk [.reg, .reg, .int] [t1, t2, t3] = true → resolve s.engine t1 = .ok a →
      resolve s.engine t2 = .ok b → integer? t3 = some v →
      step s = deliver (s.withRequests rest) ((encS s.engine mn a b v).bind fun w => .ok [w]))
    ∧ (s.requests = [mn, t1, t2, t3] :: rest → s.engine.cat.get? mn = some .B →
      shapeOk [.reg, .reg, .int] [t1, t2, t3] = true → resolve s.engine t1 = .ok a →
      resolve s.engine t2 = .ok b → integer? t3 = some v →
      step s = deliver (s.withRequests rest) ((encB s.engine mn a b v).bind fun w => .ok [w]))
    ∧ (s.requests = [mn, t1, t2] :: rest → s.engine.cat.get? mn = some .U →
      shapeOk [.reg, .int] [t1, t2] = true → resolve s.engine t1 = .ok a → integer? t2 = some v →
      step s = deliver (s.withRequests rest) ((encU s.engine mn a v).bind fun w => .ok [w]))
    ∧ (s.requests = [mn, t1, t2] :: rest → s.engine.cat.get? mn = some .J →
      shapeOk [.reg, .int] [t1, t2] = true → resolve s.engine t1 = .ok a → integer? t2 = some v →
      step s = deliver (s.withRequests rest) ((encJ s.engine mn a v).bind fun w => .ok [w]))

/-- `WrongInstructionType` and `StructuralEncodingError` cannot come out of `dispatchLine` under a well-formed configuration
(R255, R275). -/
def Obligations.UnreachableErrorKinds : Prop :=
  ∀ (e : Engine) (q : Request) (f : Failure), engineWf e = true → dispatchLine e q = .err f →
    f.kind ≠ .wrongInstructionType ∧ f.kind ≠ .structuralEncodingError

/-- Under a well-formed configuration a first token that is no key of `CAT` is the only way `dispatchLine` raises
`UnknownMnemonic`, and it is raised with that token (R271). That a request for a pseudo-mnemonic other than the eleven is malformed,
and no `UnknownMnemonic`, is the model's reading of R253, log entry 15. -/
def Obligations.UnknownMnemonicOnlyOutsideCat : Prop :=
  ∀ (e : Engine) (q : Request) (f : Failure), engineWf e = true → dispatchLine e q = .err f →
    (f.kind = .unknownMnemonic ↔ ∃ mn toks, q = mn :: toks ∧ e.cat.get? mn = none)
    ∧ (f.kind = .unknownMnemonic → ∃ mn toks, q = mn :: toks ∧ f.info = .token mn)

/-- The number of words on success: 0 for the empty request, 2 for a `li` whose immediate is outside -2048..2047, else 1
(R259, R305; the spec marks the sentence as its own inference from R233 and R255). -/
def Obligations.WordCountIsKnownFromTheRequest : Prop :=
  ∀ (e : Engine) (q : Request) (ws : List Word), e.cat.get? "li" = some .P → dispatchLine e q = .ok ws →
    ws.length = lineWordCount e.params q

/-! ### The failure protocol and the whole machine -/

/-- The failure protocol: the failure is returned in place of the words, no word is output, the request is consumed, and
nothing else changes; the image the caller collects is the one it had (R278). -/
def Obligations.FailureOutputsNothing : Prop :=
  ∀ (s : State) (q : Request) (rest : List Request) (f : Failure), s.phase = .ready → s.requests = q :: rest →
    dispatchLine s.engine q = .err f →
    ∃ t, step s = .next t ∧ t.responses = s.responses ++ [.error f] ∧ image t.responses = image s.responses
      ∧ t.requests = rest ∧ t.engine = s.engine ∧ t.phase = s.phase

/-- The outcome of a request is a function of the engine and of that request alone: two states that hold the same engine and
the same next request are answered alike, whatever came before and whatever comes after (R47). -/
def Obligations.OutcomeDependsOnRequestAlone : Prop :=
  ∀ (s s' : State) (q : Request) (rest rest' : List Request), s.phase = .ready → s'.phase = .ready →
    s'.engine = s.engine → s.requests = q :: rest → s'.requests = q :: rest' →
    (∃ r, step s = .next ((s.withRequests rest).respond r) ∧ step s' = .next ((s'.withRequests rest').respond r))
    ∨ (step s = .refused .malformedRequest ∧ step s' = .refused .malformedRequest)

/-- No step faults: the one kind the source calls fatal is unreachable (R275). -/
def Obligations.StepNeverFaults : Prop :=
  ∀ s : State, StepSafe s

/-- The invariant holds after construction with the default configuration. -/
def Obligations.ResetMeetsTheInvariant : Prop :=
  State.reset.Inv

/-- Headline: every step keeps the invariant. A constructed engine stays well formed, and every response ever given is at
most two words, each with the opcode, funct3 and funct7 of an `OPTAB` entry, or a failure of one of the three kinds that
can come out of `dispatchLine` (R77, R255, R259, R275). -/
def Obligations.StepKeepsTheInvariant : Prop :=
  ∀ s t : State, s.Inv → step s = .next t → t.Inv
end

