-- ==== Sys2Proof/Laws/State.lean ====
section
/-! SUPPORT. One lemma per field per update of State. -/

namespace Sys2Proof.Machine

@[simp] theorem respond_phase (s : State) (r : Response) : (s.respond r).phase = s.phase := rfl
@[simp] theorem respond_engine (s : State) (r : Response) : (s.respond r).engine = s.engine := rfl
@[simp] theorem respond_requests (s : State) (r : Response) : (s.respond r).requests = s.requests := rfl
@[simp] theorem respond_responses (s : State) (r : Response) : (s.respond r).responses = s.responses ++ [r] := rfl

@[simp] theorem withRequests_phase (s : State) (q : List Request) : (s.withRequests q).phase = s.phase := rfl
@[simp] theorem withRequests_engine (s : State) (q : List Request) : (s.withRequests q).engine = s.engine := rfl
@[simp] theorem withRequests_requests (s : State) (q : List Request) : (s.withRequests q).requests = q := rfl
@[simp] theorem withRequests_responses (s : State) (q : List Request) :
    (s.withRequests q).responses = s.responses := rfl

@[simp] theorem withNextRequest_phase (s : State) (q : Request) : (s.withNextRequest q).phase = s.phase := rfl
@[simp] theorem withNextRequest_engine (s : State) (q : Request) : (s.withNextRequest q).engine = s.engine := rfl
@[simp] theorem withNextRequest_requests (s : State) (q : Request) :
    (s.withNextRequest q).requests = q :: s.requests := rfl
@[simp] theorem withNextRequest_responses (s : State) (q : Request) :
    (s.withNextRequest q).responses = s.responses := rfl

/-- Taking the request that was put first gives the state back. -/
@[simp] theorem withNextRequest_taken (s : State) (q : Request) :
    (s.withNextRequest q).withRequests s.requests = s := rfl

@[simp] theorem reset_phase : State.reset.phase = .ready := rfl
@[simp] theorem reset_engine : State.reset.engine = defaultEngine := rfl
@[simp] theorem reset_requests : State.reset.requests = [] := rfl
@[simp] theorem reset_responses : State.reset.responses = [] := rfl

end Sys2Proof.Machine
end

