-- ==== Sys2Proof/Laws/Construct.lean ====
section
/-! SUPPORT. What the loader's operations can answer. -/

namespace Sys2Proof.Machine

/-- A load is accepted exactly while construction is under way; it writes the tables it is given and notes which is loaded. -/
theorem loadTables_cases (s : State) (e : Engine) (note : Loaded → Loaded) :
    (∃ done, s.phase = .loading done ∧
        loadTables s e note = .next { s with engine := e, phase := .loading (note done) }) ∨
      (s.phase = .ready ∧ loadTables s e note = .refused .alreadyConstructed) := by
  cases h : s.phase with
  | loading done => exact .inl ⟨done, rfl, by simp [loadTables, h]⟩
  | ready => exact .inr ⟨rfl, by simp [loadTables, h]⟩

/-- A construction that answers a next state had no request waiting, all three tables loaded and a well-formed configuration,
and it changes the phase alone. -/
theorem construct_next {s t : State} (h : construct s = .next t) :
    (∃ done, s.phase = .loading done ∧ done.complete = true) ∧ s.requests = [] ∧ engineWf s.engine = true ∧
      t = { s with phase := .ready } := by
  unfold construct at h
  split at h
  · rename_i done hp
    split at h
    · cases h
    · rename_i hr
      split at h
      · cases h
      · rename_i hc
        split at h
        · rename_i hw
          cases h
          exact ⟨⟨done, hp, by simpa using hc⟩, by simpa using hr, hw, rfl⟩
        · cases h
  · cases h

end Sys2Proof.Machine
end

