-- ==== Sys2Proof/Laws/Tables.lean ====
section
/-! SUPPORT. What a table read, a sequencing of results, a lookup and a classification can answer. -/

namespace Sys2Proof

@[simp] theorem Table.get?_nil {κ α : Type} [DecidableEq κ] (x : κ) : Table.get? ([] : Table κ α) x = none := rfl

@[simp] theorem Table.get?_cons {κ α : Type} [DecidableEq κ] (k : κ) (v : α) (t : Table κ α) (x : κ) :
    Table.get? ((k, v) :: t) x = if k = x then some v else Table.get? t x := rfl

/-- A row that a table answers with stands in it. -/
theorem Table.mem_of_get? {κ α : Type} [DecidableEq κ] {t : Table κ α} {x : κ} {v : α}
    (h : t.get? x = some v) : (x, v) ∈ t := by
  induction t with
  | nil => simp at h
  | cons row t ih =>
    obtain ⟨k, u⟩ := row
    by_cases hk : k = x
    · simp_all
    · simp only [Table.get?_cons, hk, if_false] at h
      exact List.mem_cons_of_mem _ (ih h)

/-- Reading two tables one after the other. -/
theorem Table.get?_append {κ α : Type} [DecidableEq κ] (t u : Table κ α) (x : κ) :
    Table.get? (t ++ u) x = (t.get? x).or (u.get? x) := by
  induction t with
  | nil => simp
  | cons row t ih =>
    obtain ⟨k, v⟩ := row
    by_cases hk : k = x <;> simp [hk, ih]

@[simp] theorem Result.bind_ok {α β : Type} (a : α) (k : α → Result β) : (Result.ok a).bind k = k a := rfl
@[simp] theorem Result.bind_err {α β : Type} (f : Failure) (k : α → Result β) : (Result.err f).bind k = .err f := rfl
@[simp] theorem Result.bind_malformed {α β : Type} (k : α → Result β) :
    (Result.malformed : Result α).bind k = .malformed := rfl

theorem Result.bind_assoc {α β γ : Type} (r : Result α) (k : α → Result β) (l : β → Result γ) :
    (r.bind k).bind l = r.bind fun a => (k a).bind l := by
  cases r <;> rfl

/-- A sequence succeeds exactly when both parts do. -/
theorem Result.bind_eq_ok {α β : Type} {r : Result α} {k : α → Result β} {b : β} :
    r.bind k = .ok b ↔ ∃ a, r = .ok a ∧ k a = .ok b := by
  cases r <;> simp [Result.bind]

/-- A sequence raises what its first part raises, or what its second part raises. -/
theorem Result.bind_eq_err {α β : Type} {r : Result α} {k : α → Result β} {f : Failure} :
    r.bind k = .err f ↔ r = .err f ∨ ∃ a, r = .ok a ∧ k a = .err f := by
  cases r <;> simp [Result.bind]

/-- A sequence is malformed exactly when one of its parts is. -/
theorem Result.bind_eq_malformed {α β : Type} {r : Result α} {k : α → Result β} :
    r.bind k = .malformed ↔ r = .malformed ∨ ∃ a, r = .ok a ∧ k a = .malformed := by
  cases r <;> simp [Result.bind]

namespace Machine

/-- What a raised failure is. -/
@[simp] theorem raise_eq {α : Type} (k : ErrorKind) (i : Info) : (raise k i : Result α) = .err ⟨k, i⟩ := rfl

theorem lookup_of_some {e : Engine} {mn : Token} {fs : FieldSpec} (h : e.optab.get? mn = some fs) :
    lookup e mn = .ok fs := by simp [lookup, h]

theorem classify_of_some {e : Engine} {mn : Token} {c : Category} (h : e.cat.get? mn = some c) :
    classify e mn = .ok c := by simp [classify, h]

theorem classify_of_none {e : Engine} {mn : Token} (h : e.cat.get? mn = none) :
    classify e mn = .err ⟨.unknownMnemonic, .token mn⟩ := by simp [classify, h]

/-- A lookup answers the table's row, or `UnknownMnemonic`. -/
theorem lookup_cases (e : Engine) (mn : Token) :
    (∃ fs, e.optab.get? mn = some fs ∧ lookup e mn = .ok fs) ∨
      (e.optab.get? mn = none ∧ lookup e mn = .err ⟨.unknownMnemonic, .token mn⟩) := by
  cases h : e.optab.get? mn <;> simp [lookup, h]

end Machine

end Sys2Proof
end

