-- ==== Sys2Proof/Laws/Ops.lean ====
section
/-! SUPPORT. What the operations on the state can answer. -/

namespace Sys2Proof.Machine

@[simp] theorem deliver_ok (s : State) (ws : List Word) : deliver s (.ok ws) = .next (s.respond (.words ws)) := rfl
@[simp] theorem deliver_err (s : State) (f : Failure) : deliver s (.err f) = .next (s.respond (.error f)) := rfl
@[simp] theorem deliver_malformed (s : State) : deliver s .malformed = .refused .malformedRequest := rfl
@[simp] theorem takeFailure_eq (s : State) (f : Failure) : takeFailure s f = .next (s.respond (.error f)) := rfl

/-- Everything a submission can do: one request more at the end of those made, or the refusal before construction. -/
theorem submit_cases (r : Request) (s : State) :
    (s.phase = .ready ∧ submit r s = .next (s.withRequests (s.requests ++ [r]))) ∨
      (s.phase ≠ .ready ∧ submit r s = .refused .notConstructed) := by
  cases h : s.phase <;> simp [submit, h]

/-- Everything a delivery can do: one response more, or the refusal of a malformed request. -/
theorem deliver_cases (s : State) (r : Result (List Word)) :
    (∃ ws, r = .ok ws ∧ deliver s r = .next (s.respond (.words ws))) ∨
      (∃ f, r = .err f ∧ deliver s r = .next (s.respond (.error f))) ∨
      (r = .malformed ∧ deliver s r = .refused .malformedRequest) := by
  cases r <;> simp

/-- If a delivery answers a next state, it is the old one with one response more. -/
theorem deliver_next {s t : State} {r : Result (List Word)} (h : deliver s r = .next t) :
    ∃ a, t = s.respond a := by
  rcases deliver_cases s r with ⟨ws, -, he⟩ | ⟨f, -, he⟩ | ⟨-, he⟩ <;> rw [he] at h <;> cases h
  · exact ⟨_, rfl⟩
  · exact ⟨_, rfl⟩

end Sys2Proof.Machine
end

