-- ==== Sys2Proof/Laws/Encoders.lean ====
section
/-! SUPPORT. What the slots, the checks, the six encoders and the encoding of a step can answer. -/

namespace Sys2Proof.Machine

@[simp] theorem srcField_reg (i : RegIdx) : srcField (.reg i) = .ok i := rfl
@[simp] theorem dstField_reg (i : RegIdx) : dstField (.reg i) = .ok i := rfl
@[simp] theorem dstField_disp (n : Nat) : dstField (.disp n) = .err ⟨.operandRangeError, .value n⟩ := rfl

theorem srcField_disp_small {n : Nat} (h : n ≤ 31) : srcField (.disp n) = .ok (BitVec.ofNat 5 n) := by
  simp [srcField, h]

theorem srcField_disp_large {n : Nat} (h : 31 < n) : srcField (.disp n) = .err ⟨.operandRangeError, .value n⟩ := by
  simp [srcField, Nat.not_le.mpr h]

/-- A source slot answers its bits, or `OperandRangeError` for a displacement above 31. -/
theorem srcField_cases (r : Resolved) :
    (∃ a, srcField r = .ok a) ∨ ∃ n : Nat, r = .disp n ∧ 31 < n ∧ srcField r = .err ⟨.operandRangeError, .value n⟩ := by
  cases r with
  | reg i => exact .inl ⟨i, rfl⟩
  | disp n =>
    by_cases h : n ≤ 31
    · exact .inl ⟨_, srcField_disp_small h⟩
    · exact .inr ⟨n, rfl, by omega, srcField_disp_large (by omega)⟩

@[simp] theorem requireRange_true (v : Int) : requireRange true v = .ok () := rfl
@[simp] theorem requireRange_false (v : Int) : requireRange false v = .err ⟨.operandRangeError, .value v⟩ := rfl

theorem requireCategory_of_eq {e : Engine} {mn : Token} {c : Category} (h : e.cat.get? mn = some c) :
    requireCategory e mn c = .ok () := by simp [requireCategory, h]

theorem requireCategory_of_ne {e : Engine} {mn : Token} {c : Category} (h : e.cat.get? mn ≠ some c) :
    requireCategory e mn c = .err ⟨.wrongInstructionType, .token mn⟩ := by simp [requireCategory, h]

/-- The format of a step's operands. -/
def argsFormat : Args → Category
  | .regReg .. => .R
  | .immediate .. => .I
  | .store .. => .S
  | .branch .. => .B
  | .upper .. => .U
  | .jump .. => .J

/-- No encoder is malformed: an encoder's operands have its shape by type. -/
theorem encodeStep_ne_malformed (e : Engine) (st : RealStep) : encodeStep e st ≠ .malformed := by
  have hl : ∀ mn, lookup e mn ≠ .malformed := by
    intro mn; rcases lookup_cases e mn with ⟨_, _, h⟩ | ⟨_, h⟩ <;> simp [h]
  have hc : ∀ mn c, requireCategory e mn c ≠ .malformed := by
    intro mn c; unfold requireCategory; split <;> simp
  have hr : ∀ b v, requireRange b v ≠ .malformed := by intro b v; cases b <;> simp
  have hd : ∀ r, dstField r ≠ .malformed := by intro r; cases r <;> simp
  have hs : ∀ r, srcField r ≠ .malformed := by
    intro r; rcases srcField_cases r with ⟨_, h⟩ | ⟨_, _, _, h⟩ <;> simp [h]
  obtain ⟨mn, args⟩ := st
  cases args <;>
    simp [encodeStep, encR, encI, encS, encB, encU, encJ, Result.bind_eq_malformed, hl, hc, hr, hd, hs]

theorem encodeSteps_ne_malformed (e : Engine) (sts : List RealStep) : encodeSteps e sts ≠ .malformed := by
  induction sts with
  | nil => simp [encodeSteps]
  | cons st rest ih => simp [encodeSteps, Result.bind_eq_malformed, encodeStep_ne_malformed, ih]

/-- A sequence of steps has as many words as steps. -/
theorem encodeSteps_length {e : Engine} {sts : List RealStep} {ws : List Word} (h : encodeSteps e sts = .ok ws) :
    ws.length = sts.length := by
  induction sts generalizing ws with
  | nil => simp [encodeSteps] at h; simp [← h]
  | cons st rest ih =>
    simp only [encodeSteps, Result.bind_eq_ok] at h
    obtain ⟨w, _, vs, hv, hw⟩ := h
    cases hw
    simp [ih hv]

/-- A one-step sequence is its step. -/
theorem encodeSteps_single (e : Engine) (st : RealStep) :
    encodeSteps e [st] = (encodeStep e st).bind fun w => .ok [w] := rfl

end Sys2Proof.Machine
end

