-- ==== Sys2Proof/Laws/Expander.lean ====
section
/-! SUPPORT. What an expansion can answer. -/

namespace Sys2Proof.Machine

/-- Everything `li` can expand to: one `addi`, the two steps of its split, or `OperandRangeError`. -/
theorem expandLi_cases (p : Params) (rd : Resolved) (imm : Int) :
    (imm12Ok imm = true ∧ expandLi p rd imm = .ok [⟨"addi", .immediate rd (.reg p.zeroReg) imm⟩]) ∨
      (imm12Ok imm = false ∧ liRangeOk p.liWidth imm = true ∧
        expandLi p rd imm = .ok (liWideSteps p.liSplit rd (imm % 2 ^ p.liWidth))) ∨
      (imm12Ok imm = false ∧ liRangeOk p.liWidth imm = false ∧
        expandLi p rd imm = .err ⟨.operandRangeError, .value imm⟩) := by
  cases h : imm12Ok imm <;> cases h' : liRangeOk p.liWidth imm <;> simp [expandLi, h, h']

theorem liWideSteps_length (split : LiSplit) (rd : Resolved) (v : Int) : (liWideSteps split rd v).length = 2 := by
  cases split <;> rfl

/-- `li` expands to one step or two, never to none (R233). -/
theorem expandLi_length {p : Params} {rd : Resolved} {imm : Int} {sts : List RealStep}
    (h : expandLi p rd imm = .ok sts) : sts.length = if imm12Ok imm then 1 else 2 := by
  rcases expandLi_cases p rd imm with ⟨hi, he⟩ | ⟨hi, _, he⟩ | ⟨_, _, he⟩ <;> rw [he] at h <;> cases h
  · simp [hi]
  · simp [hi, liWideSteps_length]

end Sys2Proof.Machine
end

