-- ==== Sys2Proof/Laws/Fields.lean ====
section
/-! SUPPORT. Each immediate field is the operand cut to the field's width, and what each range check says. -/

namespace Sys2Proof.Machine

theorem immField_eq_ofInt (v : Int) : immField v = BitVec.ofInt 12 v := by
  apply BitVec.eq_of_toNat_eq
  simp [immField, trunc12, shl, shr, BitVec.toNat_ofInt]

theorem branchField_eq_ofInt (v : Int) : branchField v = BitVec.ofInt 13 v := by
  apply BitVec.eq_of_toNat_eq
  simp [branchField, BitVec.toNat_ofInt]

theorem upperField_eq_ofInt (v : Int) : upperField v = BitVec.ofInt 20 v := by
  apply BitVec.eq_of_toNat_eq
  simp [upperField, BitVec.toNat_ofInt]

theorem jumpField_eq_ofInt (v : Int) : jumpField v = BitVec.ofInt 21 v := by
  apply BitVec.eq_of_toNat_eq
  simp [jumpField, BitVec.toNat_ofInt]

theorem imm12Ok_iff {v : Int} : imm12Ok v = true ↔ -2048 ≤ v ∧ v ≤ 2047 := by
  simp [imm12Ok]

theorem branchOk_iff {v : Int} : branchOk v = true ↔ -4096 ≤ v ∧ v ≤ 4094 ∧ v % 2 = 0 := by
  simp [branchOk, and_assoc]

theorem upperOk_iff {v : Int} : upperOk v = true ↔ -524288 ≤ v ∧ v ≤ 1048575 := by
  simp [upperOk]

theorem jumpOk_iff {a : JAlign} {v : Int} :
    jumpOk a v = true ↔ -1048576 ≤ v ∧ v ≤ 1048574 ∧ v % jAlignBytes a = 0 := by
  simp [jumpOk, and_assoc]

end Sys2Proof.Machine
end

