-- ==== Sys2Proof/Laws/Operands.lean ====
section
/-! SUPPORT. What the token readers, the resolver and the operand reader can answer. -/

namespace Sys2Proof.Machine

/-- The decimal digits of a number have its value. -/
theorem digitsValue?_toDigits (n : Nat) : digitsValue? (Nat.toDigits 10 n) = some n := by
  have hall : (Nat.toDigits 10 n).all Char.isDigit = true :=
    List.all_eq_true.mpr fun c hc => Nat.isDigit_of_mem_toDigits (by decide) (by decide) hc
  simp only [digitsValue?, Nat.toDigits_ne_nil, hall, ne_eq, not_false_eq_true, and_self, if_true]
  rw [Nat.ofDigitChars_toDigits (by decide) (by decide)]

/-- A spelled integer reads back. -/
theorem integer?_integerToken (v : Int) : integer? (integerToken v) = some v := by
  cases v with
  | ofNat n =>
    have hv := digitsValue?_toDigits n
    cases h : Nat.toDigits 10 n with
    | nil => exact absurd h Nat.toDigits_ne_nil
    | cons c cs =>
      have hc : c ≠ '-' := by
        have hd := Nat.isDigit_of_mem_toDigits (b := 10) (n := n) (c := c) (by decide) (by decide) (by simp [h])
        rintro rfl
        revert hd
        decide
      rw [h] at hv
      simp [integerToken, integer?, h, hc, hv]
  | negSucc n =>
    simp [integerToken, integer?, digitsValue?_toDigits]
    omega

/-- What stands between brackets. -/
theorem bracketBody?_brackets (ds : List Char) : bracketBody? (String.ofList ('[' :: ds ++ [']'])) = some ds := by
  simp [bracketBody?]

/-- The value between the brackets, if it is one. -/
theorem bracketed?_brackets (ds : List Char) : bracketed? (String.ofList ('[' :: ds ++ [']'])) = digitsValue? ds := by
  rw [bracketed?, bracketBody?_brackets, Option.bind_some]

/-- Everything the resolver can answer: an operand, or a failure of one of two kinds with the token. -/
theorem resolve_cases (e : Engine) (t : Token) :
    (∃ r, resolve e t = .ok r) ∨ resolve e t = .err ⟨.unknownRegister, .token t⟩ ∨
      resolve e t = .err ⟨.operandRangeError, .token t⟩ := by
  unfold resolve
  cases bracketed? t with
  | none =>
    simp only [resolveName]
    split
    · exact .inl ⟨_, rfl⟩
    · split
      · exact .inl ⟨_, rfl⟩
      · exact .inr (.inl rfl)
  | some n =>
    by_cases hn : n ≤ e.params.dispMax
    · exact .inl ⟨.disp n, by simp [hn]⟩
    · exact .inr (.inr (by simp [hn]))

/-- An operand that fits its position is never malformed. -/
theorem readOperand_ne_malformed {e : Engine} {k : OperandKind} {t : Token} (h : tokenFits k t = true) :
    readOperand e k t ≠ .malformed := by
  cases k with
  | reg =>
    rcases resolve_cases e t with ⟨r, hr⟩ | hr | hr <;> simp [readOperand, hr]
  | int => cases hi : integer? t <;> simp_all [readOperand, tokenFits]

/-- Operands that fit their shape are never malformed. -/
theorem readOperands_ne_malformed {e : Engine} :
    ∀ {ks : List OperandKind} {ts : List Token}, shapeOk ks ts = true → readOperands e ks ts ≠ .malformed
  | [], [], _ => by simp [readOperands]
  | k :: ks, t :: ts, h => by
    simp only [shapeOk, Bool.and_eq_true] at h
    simp only [readOperands, ne_eq, Result.bind_eq_malformed, not_or, not_exists, not_and]
    exact ⟨readOperand_ne_malformed h.1, fun o _ => ⟨readOperands_ne_malformed h.2, fun os _ => by simp⟩⟩
  | [], _ :: _, h => by simp [shapeOk] at h
  | _ :: _, [], h => by simp [shapeOk] at h

/-- A shape that fits has as many positions as there are tokens. -/
theorem shapeOk_length : ∀ {ks : List OperandKind} {ts : List Token}, shapeOk ks ts = true → ks.length = ts.length
  | [], [], _ => rfl
  | k :: ks, t :: ts, h => by
    simp only [shapeOk, Bool.and_eq_true] at h
    simp [shapeOk_length h.2]
  | [], _ :: _, h => by simp [shapeOk] at h
  | _ :: _, [], h => by simp [shapeOk] at h

end Sys2Proof.Machine
end

