-- ==== Sys2Proof/Laws/Exec.lean ====
section
/-! SUPPORT. Every instruction is the delivery of its steps' words: the one lemma from which its frame and its completion
follow. -/

namespace Sys2Proof.Machine

/-- The steps of an instruction: itself if it is real, its expansion if it is a pseudo-instruction. -/
def instrSteps (p : Params) : Instr → Result (List RealStep)
  | .add a b c => .ok [⟨"add", .regReg a b c⟩]
  | .sub a b c => .ok [⟨"sub", .regReg a b c⟩]
  | .sll a b c => .ok [⟨"sll", .regReg a b c⟩]
  | .slt a b c => .ok [⟨"slt", .regReg a b c⟩]
  | .sltu a b c => .ok [⟨"sltu", .regReg a b c⟩]
  | .xor a b c => .ok [⟨"xor", .regReg a b c⟩]
  | .srl a b c => .ok [⟨"srl", .regReg a b c⟩]
  | .sra a b c => .ok [⟨"sra", .regReg a b c⟩]
  | .or a b c => .ok [⟨"or", .regReg a b c⟩]
  | .and a b c => .ok [⟨"and", .regReg a b c⟩]
  | .addi a b v => .ok [⟨"addi", .immediate a b v⟩]
  | .slti a b v => .ok [⟨"slti", .immediate a b v⟩]
  | .sltiu a b v => .ok [⟨"sltiu", .immediate a b v⟩]
  | .xori a b v => .ok [⟨"xori", .immediate a b v⟩]
  | .ori a b v => .ok [⟨"ori", .immediate a b v⟩]
  | .andi a b v => .ok [⟨"andi", .immediate a b v⟩]
  | .lb a b v => .ok [⟨"lb", .immediate a b v⟩]
  | .lh a b v => .ok [⟨"lh", .immediate a b v⟩]
  | .lw a b v => .ok [⟨"lw", .immediate a b v⟩]
  | .lbu a b v => .ok [⟨"lbu", .immediate a b v⟩]
  | .lhu a b v => .ok [⟨"lhu", .immediate a b v⟩]
  | .jalr a b v => .ok [⟨"jalr", .immediate a b v⟩]
  | .sb a b v => .ok [⟨"sb", .store a b v⟩]
  | .sh a b v => .ok [⟨"sh", .store a b v⟩]
  | .sw a b v => .ok [⟨"sw", .store a b v⟩]
  | .beq a b v => .ok [⟨"beq", .branch a b v⟩]
  | .bne a b v => .ok [⟨"bne", .branch a b v⟩]
  | .blt a b v => .ok [⟨"blt", .branch a b v⟩]
  | .bge a b v => .ok [⟨"bge", .branch a b v⟩]
  | .bltu a b v => .ok [⟨"bltu", .branch a b v⟩]
  | .bgeu a b v => .ok [⟨"bgeu", .branch a b v⟩]
  | .lui a v => .ok [⟨"lui", .upper a v⟩]
  | .auipc a v => .ok [⟨"auipc", .upper a v⟩]
  | .jal a v => .ok [⟨"jal", .jump a v⟩]
  | .li a v => expandLi p a v
  | .mv a b => .ok (expandMv a b)
  | .nop => .ok (expandNop p)
  | .not a b => .ok (expandNot a b)
  | .neg a b => .ok (expandNeg p a b)
  | .la a v => .ok (expandLa a v)
  | .j v => .ok (expandJ p v)
  | .jlink a v => .ok (expandJlink a v)
  | .ret => .ok (expandRet p)
  | .bgt a b v => .ok (expandBgt a b v)
  | .ble a b v => .ok (expandBle a b v)

/-- An instruction delivers the words of its steps, all or nothing (R255, R256). -/
theorem exec_eq_deliver (i : Instr) (s : State) :
    exec i s = deliver s ((instrSteps s.engine.params i).bind (encodeSteps s.engine)) := by
  cases i <;> rfl

theorem instrSteps_ne_malformed (p : Params) (i : Instr) : instrSteps p i ≠ .malformed := by
  cases i <;> simp [instrSteps]
  unfold expandLi
  split
  · simp
  · split <;> simp

/-- Everything a step can do, by its phase and its next request. -/
theorem step_cases (s : State) :
    (s.requests = [] ∧ step s = .next s) ∨
      (∃ q rest, s.requests = q :: rest ∧ s.phase ≠ .ready ∧ step s = .refused .notConstructed) ∨
      (∃ q rest, s.requests = q :: rest ∧ s.phase = .ready ∧
        step s = serveDecoded (s.withRequests rest) (decodeRequest s.engine q)) := by
  cases hq : s.requests with
  | nil => simp [step, serveNext, hq]
  | cons q rest => cases hp : s.phase <;> simp [step, serveNext, hq, hp]

end Sys2Proof.Machine
end

