-- ==== Sys2Proof/Laws/PerInstr.lean ====
section
/-! SUPPORT. Statements about every instruction as syntax, one lemma per constructor. -/

/-- A spelled request is the instruction's mnemonic, then the tokens of its register operands in request order, then at
most one integer token. -/
def Sys2Proof.Laws.Spelling.Statement (i : Sys2Proof.Instr) : Prop :=
  ∀ p : Sys2Proof.Params, ∃ ints, ints.length ≤ 1 ∧
    Sys2Proof.spell p i = i.mnemonic p :: i.registers.map Sys2Proof.resolvedToken ++ ints

namespace Sys2Proof.Laws

theorem Spelling.add (a b c : Resolved) : Spelling.Statement (.add a b c) :=
  fun _ => ⟨[], Nat.zero_le 1, rfl⟩

theorem Spelling.sub (a b c : Resolved) : Spelling.Statement (.sub a b c) :=
  fun _ => ⟨[], Nat.zero_le 1, rfl⟩

theorem Spelling.sll (a b c : Resolved) : Spelling.Statement (.sll a b c) :=
  fun _ => ⟨[], Nat.zero_le 1, rfl⟩

theorem Spelling.slt (a b c : Resolved) : Spelling.Statement (.slt a b c) :=
  fun _ => ⟨[], Nat.zero_le 1, rfl⟩

theorem Spelling.sltu (a b c : Resolved) : Spelling.Statement (.sltu a b c) :=
  fun _ => ⟨[], Nat.zero_le 1, rfl⟩

theorem Spelling.xor (a b c : Resolved) : Spelling.Statement (.xor a b c) :=
  fun _ => ⟨[], Nat.zero_le 1, rfl⟩

theorem Spelling.srl (a b c : Resolved) : Spelling.Statement (.srl a b c) :=
  fun _ => ⟨[], Nat.zero_le 1, rfl⟩

theorem Spelling.sra (a b c : Resolved) : Spelling.Statement (.sra a b c) :=
  fun _ => ⟨[], Nat.zero_le 1, rfl⟩

theorem Spelling.or (a b c : Resolved) : Spelling.Statement (.or a b c) :=
  fun _ => ⟨[], Nat.zero_le 1, rfl⟩

theorem Spelling.and (a b c : Resolved) : Spelling.Statement (.and a b c) :=
  fun _ => ⟨[], Nat.zero_le 1, rfl⟩

theorem Spelling.addi (a b : Resolved) (v : Int) : Spelling.Statement (.addi a b v) :=
  fun _ => ⟨[integerToken v], Nat.le_refl 1, rfl⟩

theorem Spelling.slti (a b : Resolved) (v : Int) : Spelling.Statement (.slti a b v) :=
  fun _ => ⟨[integerToken v], Nat.le_refl 1, rfl⟩

theorem Spelling.sltiu (a b : Resolved) (v : Int) : Spelling.Statement (.sltiu a b v) :=
  fun _ => ⟨[integerToken v], Nat.le_refl 1, rfl⟩

theorem Spelling.xori (a b : Resolved) (v : Int) : Spelling.Statement (.xori a b v) :=
  fun _ => ⟨[integerToken v], Nat.le_refl 1, rfl⟩

theorem Spelling.ori (a b : Resolved) (v : Int) : Spelling.Statement (.ori a b v) :=
  fun _ => ⟨[integerToken v], Nat.le_refl 1, rfl⟩

theorem Spelling.andi (a b : Resolved) (v : Int) : Spelling.Statement (.andi a b v) :=
  fun _ => ⟨[integerToken v], Nat.le_refl 1, rfl⟩

theorem Spelling.lb (a b : Resolved) (v : Int) : Spelling.Statement (.lb a b v) :=
  fun _ => ⟨[integerToken v], Nat.le_refl 1, rfl⟩

theorem Spelling.lh (a b : Resolved) (v : Int) : Spelling.Statement (.lh a b v) :=
  fun _ => ⟨[integerToken v], Nat.le_refl 1, rfl⟩

theorem Spelling.lw (a b : Resolved) (v : Int) : Spelling.Statement (.lw a b v) :=
  fun _ => ⟨[integerToken v], Nat.le_refl 1, rfl⟩

theorem Spelling.lbu (a b : Resolved) (v : Int) : Spelling.Statement (.lbu a b v) :=
  fun _ => ⟨[integerToken v], Nat.le_refl 1, rfl⟩

theorem Spelling.lhu (a b : Resolved) (v : Int) : Spelling.Statement (.lhu a b v) :=
  fun _ => ⟨[integerToken v], Nat.le_refl 1, rfl⟩

theorem Spelling.jalr (a b : Resolved) (v : Int) : Spelling.Statement (.jalr a b v) :=
  fun _ => ⟨[integerToken v], Nat.le_refl 1, rfl⟩

theorem Spelling.sb (a b : Resolved) (v : Int) : Spelling.Statement (.sb a b v) :=
  fun _ => ⟨[integerToken v], Nat.le_refl 1, rfl⟩

theorem Spelling.sh (a b : Resolved) (v : Int) : Spelling.Statement (.sh a b v) :=
  fun _ => ⟨[integerToken v], Nat.le_refl 1, rfl⟩

theorem Spelling.sw (a b : Resolved) (v : Int) : Spelling.Statement (.sw a b v) :=
  fun _ => ⟨[integerToken v], Nat.le_refl 1, rfl⟩

theorem Spelling.beq (a b : Resolved) (v : Int) : Spelling.Statement (.beq a b v) :=
  fun _ => ⟨[integerToken v], Nat.le_refl 1, rfl⟩

theorem Spelling.bne (a b : Resolved) (v : Int) : Spelling.Statement (.bne a b v) :=
  fun _ => ⟨[integerToken v], Nat.le_refl 1, rfl⟩

theorem Spelling.blt (a b : Resolved) (v : Int) : Spelling.Statement (.blt a b v) :=
  fun _ => ⟨[integerToken v], Nat.le_refl 1, rfl⟩

theorem Spelling.bge (a b : Resolved) (v : Int) : Spelling.Statement (.bge a b v) :=
  fun _ => ⟨[integerToken v], Nat.le_refl 1, rfl⟩

theorem Spelling.bltu (a b : Resolved) (v : Int) : Spelling.Statement (.bltu a b v) :=
  fun _ => ⟨[integerToken v], Nat.le_refl 1, rfl⟩

theorem Spelling.bgeu (a b : Resolved) (v : Int) : Spelling.Statement (.bgeu a b v) :=
  fun _ => ⟨[integerToken v], Nat.le_refl 1, rfl⟩

theorem Spelling.lui (a : Resolved) (v : Int) : Spelling.Statement (.lui a v) :=
  fun _ => ⟨[integerToken v], Nat.le_refl 1, rfl⟩

theorem Spelling.auipc (a : Resolved) (v : Int) : Spelling.Statement (.auipc a v) :=
  fun _ => ⟨[integerToken v], Nat.le_refl 1, rfl⟩

theorem Spelling.jal (a : Resolved) (v : Int) : Spelling.Statement (.jal a v) :=
  fun _ => ⟨[integerToken v], Nat.le_refl 1, rfl⟩

theorem Spelling.li (a : Resolved) (v : Int) : Spelling.Statement (.li a v) :=
  fun _ => ⟨[integerToken v], Nat.le_refl 1, rfl⟩

theorem Spelling.mv (a b : Resolved) : Spelling.Statement (.mv a b) :=
  fun _ => ⟨[], Nat.zero_le 1, rfl⟩

theorem Spelling.nop : Spelling.Statement .nop :=
  fun _ => ⟨[], Nat.zero_le 1, rfl⟩

theorem Spelling.not (a b : Resolved) : Spelling.Statement (.not a b) :=
  fun _ => ⟨[], Nat.zero_le 1, rfl⟩

theorem Spelling.neg (a b : Resolved) : Spelling.Statement (.neg a b) :=
  fun _ => ⟨[], Nat.zero_le 1, rfl⟩

theorem Spelling.la (a : Resolved) (v : Int) : Spelling.Statement (.la a v) :=
  fun _ => ⟨[integerToken v], Nat.le_refl 1, rfl⟩

theorem Spelling.j (v : Int) : Spelling.Statement (.j v) :=
  fun _ => ⟨[integerToken v], Nat.le_refl 1, rfl⟩

theorem Spelling.jlink (a : Resolved) (v : Int) : Spelling.Statement (.jlink a v) :=
  fun _ => ⟨[integerToken v], Nat.le_refl 1, rfl⟩

theorem Spelling.ret : Spelling.Statement .ret :=
  fun _ => ⟨[], Nat.zero_le 1, rfl⟩

theorem Spelling.bgt (a b : Resolved) (v : Int) : Spelling.Statement (.bgt a b v) :=
  fun _ => ⟨[integerToken v], Nat.le_refl 1, rfl⟩

theorem Spelling.ble (a b : Resolved) (v : Int) : Spelling.Statement (.ble a b v) :=
  fun _ => ⟨[integerToken v], Nat.le_refl 1, rfl⟩

end Sys2Proof.Laws
end

