-- ==== Sys2Proof/Tests/Slice0.lean ====
section
/-! SUPPORT. Tests of the model against the spec's own examples and vectors (spec/95_test_vectors.md and the example of each
rule), and a witness for the hypotheses of each statement. Every expected value is the spec's,
but for the written forms that two tests name as the model's choice. -/

namespace Sys2Proof.Tests

set_option Elab.async false

open Sys2Proof.Machine

/-- A constructed engine with one request to answer. -/
def ready (e : Engine) (q : Request) : State := { phase := .ready, engine := e, requests := [q], responses := [] }

/-- What one step answers a request with, if it takes the request and gives exactly one response. -/
def answer (e : Engine) (q : Request) : Option Response :=
  match step (ready e q) with
  | .next { phase := .ready, engine := _, requests := [], responses := [r] } => some r
  | _ => none

/-- The words of a request under the default configuration. -/
def asks (q : Request) : Option (List Word) :=
  match answer defaultEngine q with
  | some (.words ws) => some ws
  | _ => none

/-- The failure of a request under the default configuration. -/
def fails (q : Request) : Option Failure :=
  match answer defaultEngine q with
  | some (.error f) => some f
  | _ => none

/-- Why an operation is refused, if it is. -/
def refusal? (a : Answer) : Option Refusal :=
  match a with
  | .refused r => some r
  | _ => none

/-- Why a request is refused under the default configuration. -/
def refuses (q : Request) : Option Refusal := refusal? (step (ready defaultEngine q))

/-- An engine with the given tables loaded, construction not yet complete. -/
def loadingWith (e : Engine) (done : Loaded) (rs : List Request) : State :=
  { phase := .loading done, engine := e, requests := rs, responses := [] }

/-! ### WellFormed: an ill-formed term for each check -/

/-- R102: `DISP_MAX` is 8388607. -/
theorem test_resolved_refuses_large_displacement :
    (Instr.add (.reg 1) (.disp 8388608) (.reg 2)).resolved defaultParams = false
      ∧ (Instr.add (.reg 1) (.disp 8388607) (.reg 2)).resolved defaultParams = true := by decide +kernel

/-- R107: no displacement in a destination slot. -/
theorem test_encodable_refuses_displacement_destination :
    (Instr.add (.disp 3) (.reg 1) (.reg 2)).encodable defaultParams = false
      ∧ (Instr.li (.disp 3) 5).encodable defaultParams = false := by decide +kernel

/-- R106: a displacement in a source slot is at most 31. -/
theorem test_encodable_refuses_wide_source :
    (Instr.add (.reg 1) (.disp 32) (.reg 2)).encodable defaultParams = false
      ∧ (Instr.add (.reg 1) (.disp 31) (.reg 2)).encodable defaultParams = true := by decide +kernel

/-- R69: a 12-bit immediate is in -2048..2047. -/
theorem test_encodable_refuses_immediate :
    (Instr.addi (.reg 1) (.reg 2) 2048).encodable defaultParams = false
      ∧ (Instr.sw (.reg 1) (.reg 2) (-2049)).encodable defaultParams = false
      ∧ (Instr.addi (.reg 1) (.reg 2) 2047).encodable defaultParams = true := by decide +kernel

/-- R70: a branch offset is even and in -4096..4094. -/
theorem test_encodable_refuses_branch_offset :
    (Instr.beq (.reg 1) (.reg 2) 4096).encodable defaultParams = false
      ∧ (Instr.beq (.reg 1) (.reg 2) 3).encodable defaultParams = false
      ∧ (Instr.beq (.reg 1) (.reg 2) (-4096)).encodable defaultParams = true := by decide +kernel

/-- R71: an upper-immediate operand is in -524288..1048575. -/
theorem test_encodable_refuses_upper_operand :
    (Instr.lui (.reg 1) 1048576).encodable defaultParams = false
      ∧ (Instr.lui (.reg 1) (-524288)).encodable defaultParams = true := by decide +kernel

/-- R72: a jump offset is a multiple of `J_ALIGN`; 2 is one at 2 and none at 4. -/
theorem test_encodable_refuses_jump_offset :
    (Instr.jal (.reg 1) 1).encodable defaultParams = false
      ∧ (Instr.jal (.reg 1) 2).encodable defaultParams = true
      ∧ (Instr.jal (.reg 1) 2).encodable { defaultParams with jAlign := .four } = false := by decide +kernel

/-- R221: the `li` immediate is in -2^31..2^32-1, and under the plain split `v mod 4096` is below 2048. -/
theorem test_encodable_refuses_li_immediate :
    (Instr.li (.reg 1) 4294967296).encodable defaultParams = false
      ∧ (Instr.li (.reg 1) 2048).encodable defaultParams = true
      ∧ (Instr.li (.reg 1) 2048).encodable { defaultParams with liSplit := .plain } = false := by decide +kernel

/-- R34: a configuration with a key twice, with a real mnemonic that has no row (b), with a row that lacks its funct7 (b), with
a row for a pseudo-mnemonic (b), and without one of the nine mnemonics the expander emits (d), is ill formed. -/
theorem test_engineWf_refuses :
    engineWf { defaultEngine with regtab := ("x0", 1) :: defaultRegtab } = false
      ∧ engineWf { defaultEngine with cat := ("fence", .I) :: defaultCat "jlink" } = false
      ∧ engineWf { defaultEngine with optab := ("mul", ⟨0b0110011#7, some 0#3, none⟩) :: defaultOptab,
                                      cat := ("mul", .R) :: defaultCat "jlink" } = false
      ∧ engineWf { defaultEngine with optab := ("mv", ⟨0b0010011#7, some 0#3, none⟩) :: defaultOptab } = false
      ∧ engineWf { defaultEngine with cat := (defaultCat "jlink").filter (fun r => r.1 != "blt") } = false := by
  decide +kernel

/-- R34: its four clauses admit another pseudo-mnemonic, and the second jump under any spelling. -/
theorem test_engineWf_admits_other_pseudo :
    engineWf { defaultEngine with cat := ("call", .P) :: defaultCat "jlink" } = true
      ∧ engineWf (defaultEngineUnder { defaultParams with spellJlink := "jr" }) = true := by decide +kernel

/-! ### Words: each constructor's decoding, the word written out field by field from its rule's encoding -/

/-- R121 to R130: funct7, rs2, rs1, funct3, rd, opcode. -/
theorem test_decode_register_register :
    decodeWord 0b0000000_01100_01011_000_01010_0110011#32 = .instr (.add (.reg 10) (.reg 11) (.reg 12))
      ∧ decodeWord 0b0100000_00111_00110_000_00101_0110011#32 = .instr (.sub (.reg 5) (.reg 6) (.reg 7))
      ∧ decodeWord 0b0000000_01111_01001_001_01000_0110011#32 = .instr (.sll (.reg 8) (.reg 9) (.reg 15))
      ∧ decodeWord 0b0000000_01100_01011_010_01010_0110011#32 = .instr (.slt (.reg 10) (.reg 11) (.reg 12))
      ∧ decodeWord 0b0000000_01011_00000_011_01010_0110011#32 = .instr (.sltu (.reg 10) (.reg 0) (.reg 11))
      ∧ decodeWord 0b0000000_11110_11101_100_11100_0110011#32 = .instr (.xor (.reg 28) (.reg 29) (.reg 30))
      ∧ decodeWord 0b0000000_01011_01010_101_01010_0110011#32 = .instr (.srl (.reg 10) (.reg 10) (.reg 11))
      ∧ decodeWord 0b0100000_01011_01010_101_01010_0110011#32 = .instr (.sra (.reg 10) (.reg 10) (.reg 11))
      ∧ decodeWord 0b0000000_11111_11111_110_11111_0110011#32 = .instr (.or (.reg 31) (.reg 31) (.reg 31))
      ∧ decodeWord 0b0000000_00000_00000_111_00000_0110011#32 = .instr (.and (.reg 0) (.reg 0) (.reg 0)) := by decide +kernel

/-- R141 to R152: imm[11:0], rs1, funct3, rd, opcode. -/
theorem test_decode_immediate :
    decodeWord 0b111111110000_00010_000_00010_0010011#32 = .instr (.addi (.reg 2) (.reg 2) (-16))
      ∧ decodeWord 0b100000000000_01011_010_01010_0010011#32 = .instr (.slti (.reg 10) (.reg 11) (-2048))
      ∧ decodeWord 0b000000000001_01011_011_01010_0010011#32 = .instr (.sltiu (.reg 10) (.reg 11) 1)
      ∧ decodeWord 0b111111111111_01011_100_01010_0010011#32 = .instr (.xori (.reg 10) (.reg 11) (-1))
      ∧ decodeWord 0b011111111111_01011_110_01010_0010011#32 = .instr (.ori (.reg 10) (.reg 11) 2047)
      ∧ decodeWord 0b000011111111_01011_111_01010_0010011#32 = .instr (.andi (.reg 10) (.reg 11) 255)
      ∧ decodeWord 0b000000000000_01011_000_01010_0000011#32 = .instr (.lb (.reg 10) (.reg 11) 0)
      ∧ decodeWord 0b000000000010_01011_001_01010_0000011#32 = .instr (.lh (.reg 10) (.reg 11) 2)
      ∧ decodeWord 0b000000001000_00010_010_01010_0000011#32 = .instr (.lw (.reg 10) (.reg 2) 8)
      ∧ decodeWord 0b111111111111_00110_100_00101_0000011#32 = .instr (.lbu (.reg 5) (.reg 6) (-1))
      ∧ decodeWord 0b011111111110_00110_101_00101_0000011#32 = .instr (.lhu (.reg 5) (.reg 6) 2046)
      ∧ decodeWord 0b000000000000_01010_000_00001_1100111#32 = .instr (.jalr (.reg 1) (.reg 10) 0) := by decide +kernel

/-- R171 to R173: imm[11:5], rs2, rs1, funct3, imm[4:0], opcode. -/
theorem test_decode_store :
    decodeWord 0b1111111_11111_11110_000_11111_0100011#32 = .instr (.sb (.reg 31) (.reg 30) (-1))
      ∧ decodeWord 0b0000000_01011_01010_001_00010_0100011#32 = .instr (.sh (.reg 11) (.reg 10) 2)
      ∧ decodeWord 0b1111111_01011_00010_010_11100_0100011#32 = .instr (.sw (.reg 11) (.reg 2) (-4)) := by decide +kernel

/-- R181 to R186: imm[12], imm[10:5], rs2, rs1, funct3, imm[4:1], imm[11], opcode. -/
theorem test_decode_branch :
    decodeWord 0b0_000000_01011_01010_000_0100_0_1100011#32 = .instr (.beq (.reg 10) (.reg 11) 8)
      ∧ decodeWord 0b1_111111_00000_01010_001_1110_1_1100011#32 = .instr (.bne (.reg 10) (.reg 0) (-4))
      ∧ decodeWord 0b0_000000_01011_01010_100_0000_1_1100011#32 = .instr (.blt (.reg 10) (.reg 11) 2048)
      ∧ decodeWord 0b1_000000_01011_01010_101_0000_1_1100011#32 = .instr (.bge (.reg 10) (.reg 11) (-2048))
      ∧ decodeWord 0b0_111111_00110_00101_110_1111_1_1100011#32 = .instr (.bltu (.reg 5) (.reg 6) 4094)
      ∧ decodeWord 0b1_000000_00110_00101_111_0000_0_1100011#32 = .instr (.bgeu (.reg 5) (.reg 6) (-4096)) := by decide +kernel

/-- R201, R202: imm[31:12], rd, opcode. -/
theorem test_decode_upper_immediate :
    decodeWord 0b00010010001101000101_01010_0110111#32 = .instr (.lui (.reg 10) 74565)
      ∧ decodeWord 0b00010010001101000101_01010_0010111#32 = .instr (.auipc (.reg 10) 74565) := by decide +kernel

/-- R211: imm[20], imm[10:1], imm[11], imm[19:12], rd, opcode. -/
theorem test_decode_jump :
    decodeWord 0b0_0000000000_1_00000000_00001_1101111#32 = .instr (.jal (.reg 1) 2048)
      ∧ decodeWord 0b0_0000000000_0_00000001_00001_1101111#32 = .instr (.jal (.reg 1) 4096)
      ∧ decodeWord 0b0_0000000000_0_10000000_00101_1101111#32 = .instr (.jal (.reg 5) 524288)
      ∧ decodeWord 0b1_1111111110_1_11111111_00001_1101111#32 = .instr (.jal (.reg 1) (-4)) := by decide +kernel

/-- R77: a word outside the table is rejected by the field that has no row. -/
theorem test_decode_reserved :
    decodeWord 0b0000000_00000_00000_000_00000_1110011#32 = .unknownOpcode
      ∧ decodeWord 0b000000000000_00000_001_00000_0010011#32 = .unknownFunct3
      ∧ decodeWord 0b0000001_00000_00000_000_00000_0110011#32 = .unknownFunct7 := by decide +kernel

/-- The word of a pseudo-instruction is the word of the real one it expands to (R223, R229; log entry 19). -/
theorem test_decode_pseudo_rows :
    decodeTableWord 32 0x00000013 = some (.addi (.reg 0) (.reg 0) 0)
      ∧ decodeTableWord 32 0x00008067 = some (.jalr (.reg 0) (.reg 1) 0) := by decide +kernel

/-! ### Requests: each pseudo-instruction's decoding, its tokens written out from R253 -/

/-- R221 to R231. -/
theorem test_decode_pseudo_requests :
    decodeRequest defaultEngine ["li", "a0", "4096"] = .ok (.instr (.li (.reg 10) 4096))
      ∧ decodeRequest defaultEngine ["mv", "a0", "a1"] = .ok (.instr (.mv (.reg 10) (.reg 11)))
      ∧ decodeRequest defaultEngine ["nop"] = .ok (.instr .nop)
      ∧ decodeRequest defaultEngine ["not", "a0", "a1"] = .ok (.instr (.not (.reg 10) (.reg 11)))
      ∧ decodeRequest defaultEngine ["neg", "a0", "a1"] = .ok (.instr (.neg (.reg 10) (.reg 11)))
      ∧ decodeRequest defaultEngine ["la", "a0", "1"] = .ok (.instr (.la (.reg 10) 1))
      ∧ decodeRequest defaultEngine ["j", "-8"] = .ok (.instr (.j (-8)))
      ∧ decodeRequest defaultEngine ["jlink", "ra", "16"] = .ok (.instr (.jlink (.reg 1) 16))
      ∧ decodeRequest defaultEngine ["ret"] = .ok (.instr .ret)
      ∧ decodeRequest defaultEngine ["bgt", "a0", "a1", "8"] = .ok (.instr (.bgt (.reg 10) (.reg 11) 8))
      ∧ decodeRequest defaultEngine ["ble", "a0", "a1", "8"] = .ok (.instr (.ble (.reg 10) (.reg 11) 8)) := by decide +kernel

/-- R79, R102, R103: one request of each format, with register names, aliases, displacements and a negative integer. -/
theorem test_decode_real_requests :
    decodeRequest defaultEngine ["add", "fp", "s0", "x8"] = .ok (.instr (.add (.reg 8) (.reg 8) (.reg 8)))
      ∧ decodeRequest defaultEngine ["add", "a0", "[3]", "[31]"] = .ok (.instr (.add (.reg 10) (.disp 3) (.disp 31)))
      ∧ decodeRequest defaultEngine ["addi", "a0", "a1", "-1"] = .ok (.instr (.addi (.reg 10) (.reg 11) (-1)))
      ∧ decodeRequest defaultEngine ["sw", "a1", "sp", "-4"] = .ok (.instr (.sw (.reg 11) (.reg 2) (-4)))
      ∧ decodeRequest defaultEngine ["beq", "a0", "a1", "8"] = .ok (.instr (.beq (.reg 10) (.reg 11) 8))
      ∧ decodeRequest defaultEngine ["lui", "a0", "74565"] = .ok (.instr (.lui (.reg 10) 74565))
      ∧ decodeRequest defaultEngine ["jal", "ra", "2048"] = .ok (.instr (.jal (.reg 1) 2048)) := by decide +kernel

/-! ### Steps: each instruction's words, from the vectors of spec/95_test_vectors.md -/

/-- R121. -/
theorem test_add : asks ["add", "a0", "a1", "a2"] = some [0x00c58533#32] := by decide +kernel

/-- R122. -/
theorem test_sub : asks ["sub", "t0", "t1", "t2"] = some [0x407302b3#32] := by decide +kernel

/-- R123. -/
theorem test_sll : asks ["sll", "s0", "s1", "a5"] = some [0x00f49433#32] := by decide +kernel

/-- R124. -/
theorem test_slt : asks ["slt", "a0", "a1", "a2"] = some [0x00c5a533#32] := by decide +kernel

/-- R125. -/
theorem test_sltu : asks ["sltu", "a0", "zero", "a1"] = some [0x00b03533#32] := by decide +kernel

/-- R126. -/
theorem test_xor : asks ["xor", "t3", "t4", "t5"] = some [0x01eece33#32] := by decide +kernel

/-- R127. -/
theorem test_srl : asks ["srl", "a0", "a0", "a1"] = some [0x00b55533#32] := by decide +kernel

/-- R128. -/
theorem test_sra : asks ["sra", "a0", "a0", "a1"] = some [0x40b55533#32] := by decide +kernel

/-- R129. -/
theorem test_or : asks ["or", "x31", "x31", "x31"] = some [0x01ffefb3#32] := by decide +kernel

/-- R130. -/
theorem test_and : asks ["and", "zero", "zero", "zero"] = some [0x00007033#32] := by decide +kernel

/-- R141. -/
theorem test_addi : asks ["addi", "sp", "sp", "-16"] = some [0xff010113#32]
    ∧ asks ["addi", "a0", "zero", "2047"] = some [0x7ff00513#32]
    ∧ asks ["addi", "a0", "zero", "-2048"] = some [0x80000513#32] := by decide +kernel

/-- R142. -/
theorem test_slti : asks ["slti", "a0", "a1", "-2048"] = some [0x8005a513#32] := by decide +kernel

/-- R143. -/
theorem test_sltiu : asks ["sltiu", "a0", "a1", "1"] = some [0x0015b513#32] := by decide +kernel

/-- R144. -/
theorem test_xori : asks ["xori", "a0", "a1", "-1"] = some [0xfff5c513#32] := by decide +kernel

/-- R145. -/
theorem test_ori : asks ["ori", "a0", "a1", "2047"] = some [0x7ff5e513#32] := by decide +kernel

/-- R146. -/
theorem test_andi : asks ["andi", "a0", "a1", "255"] = some [0x0ff5f513#32] := by decide +kernel

/-- R147. -/
theorem test_lb : asks ["lb", "a0", "a1", "0"] = some [0x00058503#32] := by decide +kernel

/-- R148. -/
theorem test_lh : asks ["lh", "a0", "a1", "2"] = some [0x00259503#32] := by decide +kernel

/-- R149. -/
theorem test_lw : asks ["lw", "a0", "sp", "8"] = some [0x00812503#32] := by decide +kernel

/-- R150. -/
theorem test_lbu : asks ["lbu", "t0", "t1", "-1"] = some [0xfff34283#32] := by decide +kernel

/-- R151. -/
theorem test_lhu : asks ["lhu", "t0", "t1", "2046"] = some [0x7fe35283#32]
    ∧ asks ["lhu", "a0", "a1", "2047"] = some [0x7ff5d503#32] := by decide +kernel

/-- R152. -/
theorem test_jalr : asks ["jalr", "ra", "a0", "0"] = some [0x000500e7#32]
    ∧ asks ["jalr", "ra", "t1", "-2048"] = some [0x800300e7#32] := by decide +kernel

/-- R171. -/
theorem test_sb : asks ["sb", "t6", "t5", "-1"] = some [0xffff0fa3#32] := by decide +kernel

/-- R172. -/
theorem test_sh : asks ["sh", "a1", "a0", "2"] = some [0x00b51123#32]
    ∧ asks ["sh", "zero", "zero", "0"] = some [0x00001023#32] := by decide +kernel

/-- R173. -/
theorem test_sw : asks ["sw", "a1", "sp", "-4"] = some [0xfeb12e23#32]
    ∧ asks ["sw", "a1", "[5]", "4"] = some [0x00b2a223#32]
    ∧ asks ["sw", "a1", "sp", "-2048"] = some [0x80b12023#32] := by decide +kernel

/-- R181. -/
theorem test_beq : asks ["beq", "a0", "a1", "8"] = some [0x00b50463#32]
    ∧ asks ["beq", "a0", "a1", "4094"] = some [0x7eb50fe3#32]
    ∧ asks ["beq", "a0", "a1", "-4096"] = some [0x80b50063#32] := by decide +kernel

/-- R182. -/
theorem test_bne : asks ["bne", "a0", "zero", "-4"] = some [0xfe051ee3#32] := by decide +kernel

/-- R183. -/
theorem test_blt : asks ["blt", "a0", "a1", "2048"] = some [0x00b540e3#32] := by decide +kernel

/-- R184. -/
theorem test_bge : asks ["bge", "a0", "a1", "-2048"] = some [0x80b550e3#32] := by decide +kernel

/-- R185. -/
theorem test_bltu : asks ["bltu", "t0", "t1", "4094"] = some [0x7e62efe3#32] := by decide +kernel

/-- R186. -/
theorem test_bgeu : asks ["bgeu", "t0", "t1", "-4096"] = some [0x8062f063#32] := by decide +kernel

/-- R201. -/
theorem test_lui : asks ["lui", "a0", "74565"] = some [0x12345537#32]
    ∧ asks ["lui", "a0", "1048575"] = some [0xfffff537#32]
    ∧ asks ["lui", "a0", "-524288"] = some [0x80000537#32] := by decide +kernel

/-- R202. -/
theorem test_auipc : asks ["auipc", "a0", "74565"] = some [0x12345517#32]
    ∧ asks ["auipc", "ra", "-1"] = some [0xfffff097#32] := by decide +kernel

/-- R211. -/
theorem test_jal : asks ["jal", "ra", "2048"] = some [0x001000ef#32]
    ∧ asks ["jal", "zero", "1048574"] = some [0x7ffff06f#32]
    ∧ asks ["jal", "zero", "-1048576"] = some [0x8000006f#32] := by decide +kernel

/-- R221. -/
theorem test_li : asks ["li", "a0", "100"] = some [0x06400513#32]
    ∧ asks ["li", "a0", "2048"] = some [0x00001537#32, 0x80050513#32]
    ∧ asks ["li", "a0", "-2049"] = some [0xfffff537#32, 0x7ff50513#32]
    ∧ asks ["li", "a0", "2147481600"] = some [0x80000537#32, 0x80050513#32]
    ∧ asks ["li", "a0", "4294967295"] = some [0x00000537#32, 0xfff50513#32] := by decide +kernel

/-- R222. -/
theorem test_mv : asks ["mv", "a0", "a1"] = some [0x00058513#32] := by decide +kernel

/-- R223. -/
theorem test_nop : asks ["nop"] = some [0x00000013#32] := by decide +kernel

/-- R224. -/
theorem test_not : asks ["not", "t6", "t6"] = some [0xffffcf93#32] := by decide +kernel

/-- R225. -/
theorem test_neg : asks ["neg", "a0", "a1"] = some [0x40b00533#32] := by decide +kernel

/-- R226. -/
theorem test_la : asks ["la", "gp", "524287"] = some [0x7ffff197#32]
    ∧ asks ["la", "t0", "-524288"] = some [0x80000297#32] := by decide +kernel

/-- R227. -/
theorem test_j : asks ["j", "-20"] = some [0xfedff06f#32] := by decide +kernel

/-- R228. -/
theorem test_jlink : asks ["jlink", "t0", "-1048576"] = some [0x800002ef#32] := by decide +kernel

/-- R229. -/
theorem test_ret : asks ["ret"] = some [0x00008067#32] := by decide +kernel

/-- R230. -/
theorem test_bgt : asks ["bgt", "a0", "a1", "8"] = some [0x00a5c463#32] := by decide +kernel

/-- R231. -/
theorem test_ble : asks ["ble", "zero", "ra", "4094"] = some [0x7e00dfe3#32] := by decide +kernel

/-- `encode`, written from spec/opcode_table.json: the vectors of the two lengths of `li`, and of the two constant words. -/
theorem test_encode_pseudo : encode (.li (.reg 8) 74565) = [0x00012437#32, 0x34540413#32]
    ∧ encode (.li (.reg 10) (-1)) = [0xfff00513#32]
    ∧ encode (.li (.reg 10) 4294965248) = [0x00000537#32, 0x80050513#32]
    ∧ encode .nop = [0x00000013#32] ∧ encode .ret = [0x00008067#32]
    ∧ encode (.ble (.reg 10) (.reg 11) 12) = [0x00a5d663#32] := by decide +kernel

/-! ### Failures, refusals and parameters -/

/-- R271, R272, R277: the mnemonic first, then the first failing operand. -/
theorem test_failures_of_names : fails ["xyz", "q9", "[99999999]"] = some ⟨.unknownMnemonic, .token "xyz"⟩
    ∧ fails ["ADD", "a0", "a1", "a2"] = some ⟨.unknownMnemonic, .token "ADD"⟩
    ∧ fails ["add", "a0", "q9", "[32]"] = some ⟨.unknownRegister, .token "q9"⟩
    ∧ fails ["add", "a0", "[32]", "q9"] = some ⟨.unknownRegister, .token "q9"⟩
    ∧ fails ["add", "a0", "x32", "a1"] = some ⟨.unknownRegister, .token "x32"⟩
    ∧ fails ["add", "a0", "x031", "a1"] = some ⟨.unknownRegister, .token "x031"⟩
    ∧ fails ["add", "a0", "5", "a1"] = some ⟨.unknownRegister, .token "5"⟩ := by decide +kernel

/-- R274 (a) and (b): displacements. -/
theorem test_failures_of_displacements :
    fails ["add", "a0", "[8388608]", "a1"] = some ⟨.operandRangeError, .token "[8388608]"⟩
    ∧ fails ["add", "a0", "[8388607]", "a1"] = some ⟨.operandRangeError, .value 8388607⟩
    ∧ fails ["add", "[3]", "a0", "a1"] = some ⟨.operandRangeError, .value 3⟩
    ∧ fails ["addi", "a0", "[32]", "5000"] = some ⟨.operandRangeError, .value 32⟩ := by decide +kernel

/-- R274 (c) to (g): integer operands. -/
theorem test_failures_of_integers : fails ["addi", "a0", "zero", "2048"] = some ⟨.operandRangeError, .value 2048⟩
    ∧ fails ["sw", "a1", "sp", "2048"] = some ⟨.operandRangeError, .value 2048⟩
    ∧ fails ["beq", "a0", "a1", "4096"] = some ⟨.operandRangeError, .value 4096⟩
    ∧ fails ["beq", "a0", "a1", "3"] = some ⟨.operandRangeError, .value 3⟩
    ∧ fails ["lui", "a0", "-524289"] = some ⟨.operandRangeError, .value (-524289)⟩
    ∧ fails ["jal", "zero", "1048576"] = some ⟨.operandRangeError, .value 1048576⟩
    ∧ fails ["li", "a0", "-2147483649"] = some ⟨.operandRangeError, .value (-2147483649)⟩ := by decide +kernel

/-- R253, R276: the requests outside the interface contract. -/
theorem test_refusals : refuses ["add", "a0", "a1"] = some .malformedRequest
    ∧ refuses ["add", "a0", "a1", "a2", "a3"] = some .malformedRequest ∧ refuses ["nop", "a0"] = some .malformedRequest
    ∧ refuses ["addi", "a0", "a1", "0x10"] = some .malformedRequest
    ∧ refuses ["addi", "a0", "a1", "a2"] = some .malformedRequest
    ∧ refuses ["add", "a0", "[x]", "a1"] = some .malformedRequest
    ∧ refuses ["add", "a0", "[]", "a1"] = some .malformedRequest := by decide +kernel

/-- R253, R271 (log entry 15): a pseudo-mnemonic that is none of the eleven has no request shape to match; `expand`, called
directly with it, fails with UnknownMnemonic (R220). -/
theorem test_other_pseudo_is_malformed :
    refusal? (step (ready { defaultEngine with cat := ("call", .P) :: defaultCat "jlink" } ["call", "ra", "8"]))
      = some .malformedRequest
    ∧ expand defaultParams "call" [] = .err ⟨.unknownMnemonic, .token "call"⟩ := by decide +kernel

/-- R251: the empty request. -/
theorem test_empty_request : asks [] = some [] := by decide +kernel

/-- R273: the six encoders handed a mnemonic of another category, category before operands. -/
theorem test_encoders_reject :
    encR defaultEngine "addi" (.disp 40) (.reg 1) (.reg 2) = .err ⟨.wrongInstructionType, .token "addi"⟩
    ∧ encR defaultEngine "xyz" (.reg 1) (.reg 2) (.reg 3) = .err ⟨.wrongInstructionType, .token "xyz"⟩
    ∧ encI defaultEngine "add" (.reg 10) (.reg 11) 5 = .err ⟨.wrongInstructionType, .token "add"⟩
    ∧ encS defaultEngine "lw" (.reg 10) (.reg 2) 0 = .err ⟨.wrongInstructionType, .token "lw"⟩
    ∧ encB defaultEngine "jal" (.reg 1) (.reg 2) 8 = .err ⟨.wrongInstructionType, .token "jal"⟩
    ∧ encU defaultEngine "jal" (.reg 1) 8 = .err ⟨.wrongInstructionType, .token "jal"⟩
    ∧ encJ defaultEngine "lui" (.reg 1) 8 = .err ⟨.wrongInstructionType, .token "lui"⟩ := by decide +kernel

/-- R100, R220: `lookup` and `expand` called directly. -/
theorem test_lookup_and_expand : lookup defaultEngine "xyz" = .err ⟨.unknownMnemonic, .token "xyz"⟩
    ∧ expand defaultParams "add" [] = .err ⟨.unknownMnemonic, .token "add"⟩ := by decide +kernel

/-- R72, R221: the two parameters that a model may set otherwise. Under the plain split the steps are `v >> 12` and
`v mod 4096`, and the second fails from 2048 on. -/
theorem test_parameters :
    answer (defaultEngineUnder { defaultParams with jAlign := .four }) ["jal", "zero", "2"]
      = some (.error ⟨.operandRangeError, .value 2⟩)
    ∧ answer (defaultEngineUnder { defaultParams with liSplit := .plain }) ["li", "a0", "2048"]
      = some (.error ⟨.operandRangeError, .value 2048⟩)
    ∧ answer (defaultEngineUnder { defaultParams with liSplit := .plain }) ["li", "a0", "305419896"]
      = some (.words [0x12345537#32, 0x67850513#32]) := by decide +kernel

/-- R33: the default `CAT` holds the second jump under the parameter `SPELL_JLINK`, and under no other spelling. -/
theorem test_second_jump_spelling :
    answer (defaultEngineUnder { defaultParams with spellJlink := "jr" }) ["jr", "ra", "16"]
      = some (.words [0x010000ef#32])
    ∧ answer (defaultEngineUnder { defaultParams with spellJlink := "jr" }) ["jlink", "ra", "16"]
      = some (.error ⟨.unknownMnemonic, .token "jlink"⟩) := by decide +kernel

/-- R104: the numeric suffix, where the table lacks the names. -/
theorem test_numeric_suffix : resolve { defaultEngine with regtab := [] } "x31" = .ok (.reg 31)
    ∧ resolve { defaultEngine with regtab := [] } "x32" = .err ⟨.unknownRegister, .token "x32"⟩
    ∧ resolve { defaultEngine with regtab := [] } "a0" = .err ⟨.unknownRegister, .token "a0"⟩ := by decide +kernel

/-- R48, R77, R83: a mnemonic that a configuration adds is encoded like any other table entry: `ecall` and `fence` added under
category `I` (opcode 1110011 and 0001111, funct3 000). -/
theorem test_configured_mnemonics :
    answer { defaultEngine with optab := ("ecall", ⟨0b1110011#7, some 0#3, none⟩) :: defaultOptab,
                                cat := ("ecall", .I) :: defaultCat "jlink" } ["ecall", "zero", "zero", "0"]
      = some (.words [0x00000073#32])
    ∧ answer { defaultEngine with optab := ("fence", ⟨0b0001111#7, some 0#3, none⟩) :: defaultOptab,
                                  cat := ("fence", .I) :: defaultCat "jlink" } ["fence", "zero", "zero", "255"]
      = some (.words [0x0ff0000f#32]) := by decide +kernel

/-- U6: a real mnemonic with no `OPTAB` row fails in `lookup`; the bits that a FieldSpec does give are packed, whatever the
missing ones are. -/
theorem test_ill_formed_tables :
    answer { defaultEngine with cat := ("fence", .I) :: defaultCat "jlink" } ["fence", "zero", "zero", "0"]
      = some (.error ⟨.unknownMnemonic, .token "fence"⟩)
    ∧ ∃ w, encI { defaultEngine with optab := [("addi", ⟨0b0010011#7, none, none⟩)] } "addi" (.reg 2) (.reg 3) (-1) = .ok w
        ∧ w = 0xfff#12 ++ 3#5 ++ Config.freeFunct3 { defaultEngine with optab := [("addi", ⟨0b0010011#7, none, none⟩)] }
            ⟨"addi", .immediate (.reg 2) (.reg 3) (-1)⟩ ++ 2#5 ++ 0b0010011#7 :=
  ⟨by decide +kernel, _, rfl, rfl⟩

/-! ### Construction, and how a request comes to run -/

/-- R302: the loader's three writes and the check make the engine of the default configuration, which is the state after
reset (R301). -/
theorem test_construct : (match loadRegtab defaultRegtab (State.unloaded defaultParams) with
    | .next s =>
      match loadOptab defaultOptab s with
      | .next s =>
        match loadCat (defaultCat "jlink") s with
        | .next s => (match construct s with | .next s => some s | _ => none)
        | _ => none
      | _ => none
    | _ => none) = some State.reset := by decide +kernel

/-- R34, R302: construction refuses an ill-formed configuration (`OPTAB` empty), and one whose `REGTAB` was never loaded. -/
theorem test_construct_refuses :
    refusal? (construct (loadingWith { defaultEngine with optab := [] } ⟨true, true, true⟩ []))
      = some .illFormedConfiguration
    ∧ refusal? (construct (loadingWith { defaultEngine with regtab := [] } ⟨true, true, false⟩ []))
      = some .incompleteConstruction
    ∧ refusal? (construct (State.unloaded defaultParams)) = some .incompleteConstruction := by decide +kernel

/-- R50, R302: a request before construction has no meaning, so it is never answered. -/
theorem test_request_before_construction :
    refusal? (submit ["nop"] (State.unloaded defaultParams)) = some .notConstructed
    ∧ refusal? (step (loadingWith defaultEngine ⟨true, true, true⟩ [["nop"]])) = some .notConstructed
    ∧ refusal? (construct (loadingWith defaultEngine ⟨true, true, true⟩ [["nop"]])) = some .notConstructed := by decide +kernel

/-- R7, R21: one record of each schema, and a record with a field of the wrong width. How a record shows an absent field is the
model's choice (log entry 33). -/
theorem test_records : fieldSpecOfRecord ["0110011", "000", "0100000"] = some ⟨0b0110011#7, some 0b000#3, some 0b0100000#7⟩
    ∧ fieldSpecOfRecord ["0010011", "110"] = some ⟨0b0010011#7, some 0b110#3, none⟩
    ∧ fieldSpecOfRecord ["0110111"] = some ⟨0b0110111#7, none, none⟩ ∧ fieldSpecOfRecord ["011011"] = none
    ∧ fieldSpecOfRecord ["0110111", "", ""] = none ∧ regIdxOfRecord ["01010"] = some 10 := by decide +kernel

/-- The next step after `withFetchWord` runs the word's instruction: `sub t0 t1 t2` (R122). -/
theorem test_withFetchWord :
    (match step (State.reset.withFetchWord 32 0x407302b3) with | .next s => some s.responses | _ => none)
      = some [.words [0x407302b3#32]] := by decide +kernel

/-- R10, R42, L1-1, L1-9: the renderings; characters 17 to 19 of `bs` are funct3. The digits and the order of the nibble-grouped
text are the model's choice (log entry 34). -/
theorem test_renderings : hx 0xff010113#32 = "0xff010113" ∧ bs 0xff010113#32 = "11111111000000010000000100010011"
    ∧ parseHx "0xff010113" = some 0xff010113#32
    ∧ ((bs 0x00f49433#32).toList.drop 17).take 3 = ['0', '0', '1']
    ∧ nibbleText " " 0xff010113#32 = "1111 1111 0000 0001 0000 0001 0001 0011" := by decide +kernel

/-- R43, P4: a failing line contributes nothing to the image and changes none of its neighbours. -/
theorem test_image : image [.words [0x00000013#32], .error ⟨.operandRangeError, .value 5000⟩,
    .words [0x00001537#32, 0x38850513#32], .words [0x00050593#32]]
      = [0x00000013#32, 0x00001537#32, 0x38850513#32, 0x00050593#32] := by decide +kernel

/-- R25, R42: four bytes a word, in either byte order. -/
theorem test_bytes : lineBytes [0x00001537#32, 0x38850513#32] = 8 ∧ wordOffset 1 = 4
    ∧ wordBytes .little 0x12345678#32 = [0x78#8, 0x56#8, 0x34#8, 0x12#8]
    ∧ wordBytes .big 0x12345678#32 = [0x12#8, 0x34#8, 0x56#8, 0x78#8] := by decide +kernel

/-- R305: the number of words a line produces, from its tokens. -/
theorem test_word_count : lineWordCount defaultParams ["li", "a0", "2048"] = 2
    ∧ lineWordCount defaultParams ["li", "a0", "2047"] = 1 ∧ lineWordCount defaultParams [] = 0
    ∧ lineWordCount defaultParams ["j", "-8"] = 1 := by decide +kernel

/-- L1-3: the truncation law. -/
theorem test_trunc12 : trunc12 (-1) = 4095 ∧ trunc12 (-2048) = 2048 ∧ trunc12 2047 = 2047 ∧ trunc12 0 = 0
    ∧ trunc12 4096 = 0 ∧ trunc12 (-2049) = 2047 ∧ shr (-1) 12 = -1 := by decide +kernel

/-! ### Witnesses: for each statement with hypotheses, concrete values that meet all of them together, at the ends of the
ranges it names -/

/-- The default engine holds each default row. -/
theorem witness_HoldsDefaultRows : HoldsDefaultRows defaultEngine := by
  have hall : defaultRealCat.all (fun row => (defaultOptab.get? row.1).isSome && decide (defaultEngine.cat.get? row.1 = some row.2))
      = true := by decide +kernel
  intro row hrow
  have h := List.all_eq_true.mp hall row hrow
  simp only [Bool.and_eq_true, Option.isSome_iff_exists, decide_eq_true_eq] at h
  obtain ⟨⟨fs, hfs⟩, hcat⟩ := h
  exact ⟨fs, hfs, hcat, hfs⟩

/-- The default spelling, and another one. -/
theorem witness_SpelledRequestDecodes : defaultEngine.cat = defaultCat defaultEngine.params.spellJlink
    ∧ defaultEngine.regtab = defaultRegtab ∧ keysDistinct (defaultCat defaultEngine.params.spellJlink) = true
    ∧ (Instr.add (.reg 31) (.disp 8388607) (.disp 0)).resolved defaultEngine.params = true
    ∧ (Instr.jlink (.reg 0) (-1048576)).resolved defaultEngine.params = true
    ∧ (defaultEngineUnder { defaultParams with spellJlink := "jr" }).params.spellJlink = "jr"
    ∧ (defaultEngineUnder { defaultParams with spellJlink := "jr" }).cat = defaultCat "jr"
    ∧ keysDistinct (defaultCat "jr") = true := by decide +kernel

theorem witness_EncodedWordsDecode : (Instr.beq (.disp 31) (.reg 31) (-4096)).encodable defaultParams = true
    ∧ (Instr.li (.reg 31) 4294967295).encodable defaultParams = true
    ∧ (Instr.lui (.reg 0) (-524288)).encodable defaultParams = true
    ∧ (Instr.jal (.reg 0) 1048574).encodable defaultParams = true := by decide +kernel

theorem witness_DecodedWordReencodes :
    decodeWord 0b1000000_00001_00000_000_00000_1100011#32 = .instr (.beq (.reg 0) (.reg 1) (-4096)) := by decide +kernel

theorem witness_ImmediatesReadBack : ((-2048 : Int) ≤ -2048 ∧ (2047 : Int) ≤ 2047) ∧ ((4094 : Int) % 2 = 0
    ∧ (-4096 : Int) % 2 = 0)
    ∧ (1048574 : Int) % jAlignBytes .two = 0 ∧ (1048572 : Int) % jAlignBytes .four = 0
    ∧ (-1048576 : Int) % jAlignBytes .four = 0 := by decide

theorem witness_TruncationLaw : ((0 : Int) ≤ 2047 ∧ (2047 : Int) ≤ 2047) ∧ ((-2048 : Int) ≤ -1 ∧ (-1 : Int) ≤ -1) := by decide

theorem witness_LookupAnswersTheTable :
    defaultEngine.optab.get? "jal" = some ⟨0b1101111#7, none, none⟩
      ∧ defaultEngine.optab.get? "nop" = none := by decide +kernel

/-- The last of the 33 rows, and one of the two that share an index. -/
theorem witness_DefaultRegisterNames :
    [("fp", 8), ("t6", 31)] ⊆
      ([("zero", 0), ("ra", 1), ("sp", 2), ("gp", 3), ("tp", 4), ("t0", 5), ("t1", 6), ("t2", 7), ("s0", 8),
        ("fp", 8), ("s1", 9), ("a0", 10), ("a1", 11), ("a2", 12), ("a3", 13), ("a4", 14), ("a5", 15), ("a6", 16),
        ("a7", 17), ("s2", 18), ("s3", 19), ("s4", 20), ("s5", 21), ("s6", 22), ("s7", 23), ("s8", 24), ("s9", 25),
        ("s10", 26), ("s11", 27), ("t3", 28), ("t4", 29), ("t5", 30), ("t6", 31)] : List (Token × RegIdx)) := by decide +kernel

/-- States under construction with no request: a table missing; all loaded and well formed; all loaded and ill formed. -/
theorem witness_ConstructionChecksTheConfiguration :
    ((loadingWith defaultEngine ⟨true, true, false⟩ []).phase = .loading ⟨true, true, false⟩
      ∧ (loadingWith defaultEngine ⟨true, true, false⟩ []).requests = []
      ∧ (⟨true, true, false⟩ : Loaded) ≠ ⟨true, true, true⟩)
    ∧ ((loadingWith defaultEngine ⟨true, true, true⟩ []).phase = .loading ⟨true, true, true⟩
      ∧ engineWf (loadingWith defaultEngine ⟨true, true, true⟩ []).engine = true)
    ∧ engineWf (loadingWith { defaultEngine with optab := [] } ⟨true, true, true⟩ []).engine = false := by
  decide +kernel

theorem witness_ConstructedTablesNeverChange : State.reset.phase = .ready
    ∧ step (ready defaultEngine ["nop"])
      = .next { phase := .ready, engine := defaultEngine, requests := [], responses := [.words [0x00000013#32]] } :=
  ⟨rfl, rfl⟩

theorem witness_RequestBeforeConstructionIsRefused :
    (loadingWith defaultEngine ⟨true, true, true⟩ [["nop"]]).phase ≠ .ready
      ∧ (loadingWith defaultEngine ⟨true, true, true⟩ [["nop"]]).requests ≠ []
      ∧ (State.unloaded defaultParams).phase ≠ .ready ∧ State.reset.phase = .ready := by decide +kernel

/-- `[8388607]`, `[8388608]`, `[]` and `[x]`. -/
theorem witness_BracketedLiteralResolves :
    ("8388607".toList ≠ [] ∧ "8388607".toList.all Char.isDigit = true
      ∧ Nat.ofDigitChars 10 "8388607".toList 0 ≤ defaultEngine.params.dispMax)
    ∧ ("8388608".toList ≠ [] ∧ "8388608".toList.all Char.isDigit = true
      ∧ defaultEngine.params.dispMax < Nat.ofDigitChars 10 "8388608".toList 0)
    ∧ ("x".toList.all Char.isDigit = false
      ∧ defaultEngine.regtab.get? (String.ofList ('[' :: "x".toList ++ [']'])) = none
      ∧ (ready defaultEngine ["add", "a0", "[x]", "a1"]).phase = .ready ∧ defaultEngine.cat.get? "add" = some .R
      ∧ String.ofList ('[' :: "x".toList ++ [']']) ∈ ["a0", "[x]", "a1"]) := by decide +kernel

/-- R105, R272: an ill-formed bracketed literal given to the resolver directly. -/
theorem test_resolve_ill_formed_bracket : resolve defaultEngine "[x]" = .err ⟨.unknownRegister, .token "[x]"⟩
    ∧ resolve defaultEngine "[]" = .err ⟨.unknownRegister, .token "[]"⟩
    ∧ resolve defaultEngine "[3]" = .ok (.disp 3) := by decide +kernel

/-- A key; an `x` number that is no key (where the table is empty); and two tokens that are neither, one of them in brackets. -/
theorem witness_RegisterNameResolves :
    ((¬ ∃ ds, "a0" = String.ofList ('[' :: ds ++ [']']) ∧ ds ≠ [] ∧ ds.all Char.isDigit = true)
      ∧ defaultEngine.regtab.get? "a0" = some 10)
    ∧ ((¬ ∃ ds, "x31" = String.ofList ('[' :: ds ++ [']']) ∧ ds ≠ [] ∧ ds.all Char.isDigit = true)
      ∧ ({ defaultEngine with regtab := [] } : Engine).regtab.get? "x31" = none
      ∧ "x31" = String.ofList ('x' :: ['3', '1']) ∧ Nat.ofDigitChars 10 ['3', '1'] 0 = 31)
    ∧ ((¬ ∃ ds, "q9" = String.ofList ('[' :: ds ++ [']']) ∧ ds ≠ [] ∧ ds.all Char.isDigit = true)
      ∧ defaultEngine.regtab.get? "q9" = none
      ∧ ¬ ∃ ds, "q9" = String.ofList ('x' :: ds) ∧ ds ≠ [] ∧ ds.length ≤ 2 ∧ ds.all Char.isDigit = true
        ∧ Nat.ofDigitChars 10 ds 0 ≤ 31)
    ∧ ((¬ ∃ ds, "[]" = String.ofList ('[' :: ds ++ [']']) ∧ ds ≠ [] ∧ ds.all Char.isDigit = true)
      ∧ defaultEngine.regtab.get? "[]" = none
      ∧ ¬ ∃ ds, "[]" = String.ofList ('x' :: ds) ∧ ds ≠ [] ∧ ds.length ≤ 2 ∧ ds.all Char.isDigit = true
        ∧ Nat.ofDigitChars 10 ds 0 ≤ 31) := by
  have head : ∀ (t : Token) (c d : Char) (cs : List Char), t.toList.head? = some d → d ≠ c → t ≠ String.ofList (c :: cs) := by
    rintro t c d cs hd hne rfl
    simp at hd
    exact hne hd.symm
  have inside : ∀ ds : List Char, "[]" = String.ofList ('[' :: ds ++ [']']) → ds = [] := fun ds h => by
    have hl : 2 = (String.ofList ('[' :: ds ++ [']'])).toList.length := congrArg (fun t : Token => t.toList.length) h
    rw [String.toList_ofList] at hl
    simpa using hl
  exact ⟨⟨fun ⟨_, h, _⟩ => head _ _ 'a' _ rfl (by decide) h, by decide +kernel⟩,
    ⟨fun ⟨_, h, _⟩ => head _ _ 'x' _ rfl (by decide) h, rfl, rfl, rfl⟩,
    ⟨fun ⟨_, h, _⟩ => head _ _ 'q' _ rfl (by decide) h, by decide +kernel,
      fun ⟨_, h, _⟩ => head _ _ 'q' _ rfl (by decide) h⟩,
    ⟨fun ⟨ds, h, hne, _⟩ => hne (inside ds h), by decide +kernel, fun ⟨_, h, _⟩ => head _ _ '[' _ rfl (by decide) h⟩⟩

theorem witness_SlotsTakeTheirOperands : (31 : Nat) ≤ 31 ∧ (31 : Nat) < 32 := by decide

theorem witness_EncodersRejectForeignMnemonics :
    defaultEngine.cat.get? "addi" ≠ some .R ∧ defaultEngine.cat.get? "xyz" ≠ some .I ∧ defaultEngine.cat.get? "lw" ≠ some .S
    ∧ defaultEngine.cat.get? "jal" ≠ some .B ∧ defaultEngine.cat.get? "jal" ≠ some .U
    ∧ defaultEngine.cat.get? "lui" ≠ some .J := by decide +kernel

/-- The two kinds of source slot, at their ends. -/
theorem witness_SrcSlot : SrcSlot (.reg 31) 31 ∧ SrcSlot (.disp 31) 31 ∧ SrcSlot (.disp 0) 0 :=
  ⟨.inl rfl, .inr ⟨31, by decide, rfl, rfl⟩, .inr ⟨0, by decide, rfl, rfl⟩⟩

/-- A row held, a foreign category and a missing row, for one mnemonic of each format. -/
theorem witness_RealInstructionsEncode :
    HoldsRow defaultEngine "and" .R ⟨0b0110011#7, some 0b111#3, some 0b0000000#7⟩
    ∧ HoldsRow defaultEngine "jalr" .I ⟨0b1100111#7, some 0b000#3, none⟩
    ∧ HoldsRow defaultEngine "sw" .S ⟨0b0100011#7, some 0b010#3, none⟩
    ∧ HoldsRow defaultEngine "bgeu" .B ⟨0b1100011#7, some 0b111#3, none⟩
    ∧ HoldsRow defaultEngine "auipc" .U ⟨0b0010111#7, none, none⟩
    ∧ HoldsRow defaultEngine "jal" .J ⟨0b1101111#7, none, none⟩
    ∧ ({ defaultEngine with cat := [("jal", .P)] } : Engine).cat.get? "jal" ≠ some .J
    ∧ (defaultEngine.cat.get? "jal" = some .J ∧ ({ defaultEngine with optab := [] } : Engine).optab.get? "jal" = none) := by
  unfold HoldsRow
  decide +kernel

/-- `li` at the ends of its clauses: one word, two words, the plain split on either side of 2048, and out of range. -/
theorem witness_LoadImmediateEncodes :
    (defaultEngine.params.liWidth = 32 ∧ HoldsRow defaultEngine "lui" .U ⟨0b0110111#7, none, none⟩
      ∧ HoldsRow defaultEngine "addi" .I ⟨0b0010011#7, some 0b000#3, none⟩)
    ∧ defaultEngine.params.liSplit = .compensated
      ∧ (defaultEngineUnder { defaultParams with liSplit := .plain }).params.liSplit = .plain
    ∧ ((2047 : Int) < 6143 ∧ (6143 : Int) ≤ 4294967295 ∧ (6143 : Int) % 4294967296 % 4096 < 2048)
    ∧ ((2047 : Int) < 2048 ∧ 2048 ≤ (2048 : Int) % 4294967296 % 4096)
    ∧ ((-2147483648 : Int) < -2048 ∧ (-2147483648 : Int) % 4294967296 = 2147483648)
    ∧ (4294967295 : Int) < 4294967296 := by
  unfold HoldsRow
  decide +kernel

theorem witness_PseudoInstructionsComplete :
    HoldsRow defaultEngine "xori" .I ⟨0b0010011#7, some 0b100#3, none⟩
    ∧ HoldsRow defaultEngine "sub" .R ⟨0b0110011#7, some 0b000#3, some 0b0100000#7⟩
    ∧ HoldsRow defaultEngine "blt" .B ⟨0b1100011#7, some 0b100#3, none⟩
    ∧ HoldsRow defaultEngine "bge" .B ⟨0b1100011#7, some 0b101#3, none⟩
    ∧ (1048574 : Int) % jAlignBytes defaultEngine.params.jAlign = 0 := by
  unfold HoldsRow
  decide +kernel

theorem witness_InstructionsOnlyRespond :
    (State.reset.withRequests [["nop"]]).engine = State.reset.engine
      ∧ State.reset.withRequests [["nop"]] ≠ State.reset := by
  refine ⟨rfl, fun h => ?_⟩
  have := congrArg State.requests h
  simp [State.reset] at this

theorem witness_WordsExactlyWhenEncodable : HoldsDefaultRows State.reset.engine
    ∧ (Instr.la (.reg 5) (-524288)).encodable State.reset.engine.params = true
    ∧ (Instr.la (.reg 5) (-524289)).encodable State.reset.engine.params = false :=
  ⟨witness_HoldsDefaultRows, by decide +kernel, by decide +kernel⟩

theorem witness_MachineWordsAreTableWords : HoldsDefaultRows State.reset.engine ∧ State.reset.engine.params = defaultParams
    ∧ (Instr.li (.reg 5) (-2147483648)).encodable defaultParams = true :=
  ⟨witness_HoldsDefaultRows, rfl, by decide +kernel⟩

/-- One state for the statements about a step that takes a request: the instruction it decodes to. -/
theorem witness_StepRunsTheDecodedInstruction : (ready defaultEngine ["jlink", "ra", "16"]).phase = .ready
    ∧ (ready defaultEngine ["jlink", "ra", "16"]).requests = ["jlink", "ra", "16"] :: []
    ∧ decodeRequest defaultEngine ["jlink", "ra", "16"] = .ok (.instr (.jlink (.reg 1) 16)) :=
  ⟨rfl, rfl, by decide +kernel⟩

theorem witness_EmptyRequestHasNoWords : (ready defaultEngine []).phase = .ready
    ∧ (ready defaultEngine []).requests = [] :: [] :=
  ⟨rfl, rfl⟩

theorem witness_IdleStepChangesNothing : State.reset.requests = [] := rfl

theorem witness_UnknownMnemonicFailsFirst : (ready defaultEngine ["xyz", "q9", "[99999999]"]).phase = .ready
    ∧ defaultEngine.cat.get? "xyz" = none := by decide +kernel

/-- A classified request whose shape fails, one whose shape holds, and a mnemonic with no shape. -/
theorem witness_MalformedExactlyWhenShapeFails : (ready defaultEngine ["li", "a0", "a1"]).phase = .ready
    ∧ defaultEngine.cat.get? "li" = some .P
    ∧ (({ defaultEngine with cat := [("call", .P)] } : Engine).cat.get? "call" = some .P
      ∧ shapeOf defaultEngine.params .P "call" = none)
    ∧ shapeOf defaultEngine.params .P "li" = some [.reg, .int]
    ∧ shapeOk [.reg, .int] ["a0", "a1"] = false ∧ shapeOk [.reg, .int] ["a0", "-1"] = true := by decide +kernel

/-- `add a0 q9 [99999999]`: the second operand decides. -/
theorem witness_FirstUnresolvedOperandDecides :
    (ready defaultEngine ("add" :: (["a0"] ++ "q9" :: ["[99999999]"]))).phase = .ready
    ∧ defaultEngine.cat.get? "add" = some .R ∧ shapeOf defaultEngine.params .R "add" = some ([.reg] ++ .reg :: [.reg])
    ∧ shapeOk ([.reg] ++ .reg :: [.reg]) (["a0"] ++ "q9" :: ["[99999999]"]) = true
    ∧ readOperands defaultEngine [.reg] ["a0"] = .ok [.reg (.reg 10)]
    ∧ readOperand defaultEngine .reg "q9" = .err ⟨.unknownRegister, .token "q9"⟩ := by decide +kernel

/-- A request of each format, its operands resolved. -/
theorem witness_RealRequestGoesToItsEncoder :
    defaultEngine.cat.get? "add" = some .R ∧ defaultEngine.cat.get? "addi" = some .I ∧ defaultEngine.cat.get? "sw" = some .S
    ∧ defaultEngine.cat.get? "beq" = some .B ∧ defaultEngine.cat.get? "lui" = some .U ∧ defaultEngine.cat.get? "jal" = some .J
    ∧ resolve defaultEngine "a0" = .ok (.reg 10) ∧ resolve defaultEngine "[31]" = .ok (.disp 31)
    ∧ resolve defaultEngine "x0" = .ok (.reg 0) ∧ integer? "-4096" = some (-4096)
    ∧ shapeOk [.reg, .reg, .reg] ["a0", "[31]", "x0"] = true ∧ shapeOk [.reg, .reg, .int] ["a0", "[31]", "-4096"] = true
    ∧ shapeOk [.reg, .int] ["a0", "-4096"] = true := by decide +kernel

theorem witness_UnreachableErrorKinds : engineWf defaultEngine = true
    ∧ dispatchLine defaultEngine ["add", "a0", "[32]", "a1"] = .err ⟨.operandRangeError, .value 32⟩ := by decide +kernel

/-- A request outside `CAT`, and a failure of another kind. -/
theorem witness_UnknownMnemonicOnlyOutsideCat : engineWf defaultEngine = true
    ∧ (dispatchLine defaultEngine ["xyz", "q9"] = .err ⟨.unknownMnemonic, .token "xyz"⟩
      ∧ defaultEngine.cat.get? "xyz" = none)
    ∧ dispatchLine defaultEngine ["mv", "a0", "q9"] = .err ⟨.unknownRegister, .token "q9"⟩ := by decide +kernel

theorem witness_WordCountIsKnownFromTheRequest : defaultEngine.cat.get? "li" = some .P
    ∧ dispatchLine defaultEngine ["li", "a0", "2048"] = .ok [0x00001537#32, 0x80050513#32] := by decide +kernel

/-- A failure with an earlier response standing. -/
theorem witness_FailureOutputsNothing :
    ({ ready defaultEngine ["j", "3"] with responses := [.words [0x00000013#32]] } : State).phase = .ready
    ∧ dispatchLine defaultEngine ["j", "3"] = .err ⟨.operandRangeError, .value 3⟩ := by decide +kernel

/-- Two states with the same engine and the same next request that differ in everything else. -/
theorem witness_OutcomeDependsOnRequestAlone :
    (ready defaultEngine ["nop"]).phase = .ready
    ∧ ({ ready defaultEngine ["nop"] with requests := [["nop"], ["ret"]], responses := [.words []] } : State).engine
      = (ready defaultEngine ["nop"]).engine
    ∧ (ready defaultEngine ["nop"]).requests = ["nop"] :: [] := ⟨rfl, rfl, rfl⟩

/-- A state that meets the invariant and has a next state. -/
theorem witness_StepKeepsTheInvariant : (ready defaultEngine ["ret"]).Inv
    ∧ step (ready defaultEngine ["ret"])
      = .next { phase := .ready, engine := defaultEngine, requests := [], responses := [.words [0x00008067#32]] } :=
  ⟨⟨fun _ => by decide +kernel, by simp [ready]⟩, rfl⟩

end Sys2Proof.Tests
end

section
/-! The renderings of a word (spec/00_scope.md R10) and the state after construction (R8): the laws of `bs`, `hx` and
`parseHx`, and the two obligations on them. The idea of the read-back is that parsing the `k` low hexadecimal digits of `n`
after an accumulator `acc` yields `16 ^ k * acc + n % 16 ^ k`. -/

namespace Sys2Proof.Machine

/-! ### The bit rendering -/

@[simp] theorem bs_toList (w : Word) :
    (bs w).toList = (List.range 32).map fun i => if w.getMsbD i then '1' else '0' := String.toList_ofList

theorem bs_toList_length (w : Word) : (bs w).toList.length = 32 := by simp

/-- String index 0 is the most significant bit (R10). -/
theorem bs_toList_getElem? (w : Word) {i : Nat} (hi : i < 32) :
    (bs w).toList[i]? = some (if w.getLsbD (31 - i) then '1' else '0') := by
  have hbit : w.getMsbD i = w.getLsbD (31 - i) := by simp [BitVec.getMsbD_eq_getLsbD, hi]
  rw [bs_toList, List.getElem?_map, List.getElem?_range hi, Option.map_some, hbit]

/-! ### The hexadecimal rendering -/

/-- The `k` low hexadecimal digits of `n`, most significant first: the digits `hx` writes, for any number of them. -/
def hexDigits (n k : Nat) : List Char := (List.range k).reverse.map fun j => hexDigit (n / 16 ^ j)

theorem hx_toList (w : Word) : (hx w).toList = '0' :: 'x' :: hexDigits w.toNat 8 := String.toList_ofList

@[simp] theorem hexDigits_length (n k : Nat) : (hexDigits n k).length = k := by simp [hexDigits]

@[simp] theorem hexDigits_zero (n : Nat) : hexDigits n 0 = [] := rfl

theorem hexDigits_succ (n k : Nat) : hexDigits n (k + 1) = hexDigit (n / 16 ^ k) :: hexDigits n k := by
  simp [hexDigits, List.range_succ]

theorem hx_toList_length (w : Word) : (hx w).toList.length = 10 := by simp [hx_toList]

theorem hexValue?_digitChar : ∀ d < 16, hexValue? (Nat.digitChar d) = some d := by decide

/-- A digit reads back to the value it was written for. -/
@[simp] theorem hexValue?_hexDigit (n : Nat) : hexValue? (hexDigit n) = some (n % 16) :=
  hexValue?_digitChar _ (Nat.mod_lt n (by decide))

theorem parseHexDigits_cons {c : Char} {d : Nat} (hc : hexValue? c = some d) (cs : List Char) (acc : Nat) :
    parseHexDigits (c :: cs) acc = parseHexDigits cs (16 * acc + d) := by
  simp [parseHexDigits, hc]

/-- Reading the `k` low digits of `n` shifts the accumulator by `k` digits and adds them. -/
theorem parseHexDigits_hexDigits (n k acc : Nat) :
    parseHexDigits (hexDigits n k) acc = some (16 ^ k * acc + n % 16 ^ k) := by
  induction k generalizing acc with
  | zero => simp [parseHexDigits, Nat.mod_one]
  | succ k ih =>
    rw [hexDigits_succ, parseHexDigits_cons (hexValue?_hexDigit _), ih, Nat.mod_pow_succ, pow_succ]
    congr 1
    ring

/-- Eight digits hold the whole word, so nothing is lost on the way back (L1-9). -/
theorem parseHx_hx (w : Word) : parseHx (hx w) = some w := by
  have hfits : w.toNat < 16 ^ 8 := w.isLt
  have hread : parseHexDigits (hexDigits w.toNat 8) 0 = some w.toNat := by
    rw [parseHexDigits_hexDigits, Nat.mod_eq_of_lt hfits, Nat.mul_zero, Nat.zero_add]
  simp [parseHx, hx_toList, hread]

/-! ### The obligations -/

/-- Settles O8: `bs` by its digit at each index, `hx` by reading its eight digits back. -/
theorem renderingsReadBack : Obligations.RenderingsReadBack := fun w =>
  ⟨⟨bs_toList_length w, fun _ hi => bs_toList_getElem? w hi⟩, hx_toList_length w, parseHx_hx w⟩

/-- Settles O9: the reset state is ready, idle and holds the default engine, whose tables and parameters the model writes
out. -/
theorem resetHoldsTheDefaultConfiguration : Obligations.ResetHoldsTheDefaultConfiguration := by
  unfold Obligations.ResetHoldsTheDefaultConfiguration
  rw [reset_engine]
  exact ⟨reset_phase, rfl, rfl, rfl, rfl, rfl, rfl, rfl, rfl, rfl, rfl, rfl, reset_requests, reset_responses⟩

end Sys2Proof.Machine
end

section
/-! Membership in a table without a repeated key is what a read answers, and what that gives for the default tables: their
rows are readable under any engine that holds them, and a step of theirs has the word its pattern says (spec/10_state.md R31
to R34; spec/30_encoding.md R62 to R72). -/

namespace Sys2Proof

/-- A table without a repeated key answers each of its rows. -/
theorem Table.get?_of_mem {κ α : Type} [DecidableEq κ] {t : Table κ α} {k : κ} {v : α}
    (hnodup : (t.map Prod.fst).Nodup) (hmem : (k, v) ∈ t) : t.get? k = some v := by
  induction t with
  | nil => cases hmem
  | cons row t ih =>
    obtain ⟨k', v'⟩ := row
    obtain ⟨hnotin, hnodup⟩ := List.nodup_cons.mp hnodup
    rcases List.mem_cons.mp hmem with heq | hmem
    · cases heq
      simp
    · have hne : k' ≠ k := fun h => hnotin (List.mem_map.mpr ⟨(k, v), hmem, h.symm⟩)
      simp [hne, ih hnodup hmem]

namespace Machine

/-- A table that passes the key check answers each of its rows. -/
theorem get?_of_keysDistinct {α : Type} {t : Table Token α} {k : Token} {v : α} (hd : keysDistinct t = true)
    (hmem : (k, v) ∈ t) : t.get? k = some v :=
  Table.get?_of_mem (of_decide_eq_true hd) hmem

/-- What the check of R34 says. -/
theorem engineWf_iff {e : Engine} :
    engineWf e = true ↔ keysDistinct e.optab = true ∧ keysDistinct e.cat = true ∧ keysDistinct e.regtab = true
      ∧ (∀ row ∈ e.cat, rowFits e.optab row.1 row.2 = true)
      ∧ ∀ row ∈ emitted, e.cat.get? row.1 = some row.2 := by
  simp only [engineWf, Bool.and_eq_true, List.all_eq_true, decide_eq_true_eq, and_assoc]

/-- A real mnemonic whose row fits has an `OPTAB` entry with the fields of its format (R34 b). -/
theorem rowFits_real {optab : Table Token FieldSpec} {mn : Token} {c : Category} (hc : c ≠ .P)
    (h : rowFits optab mn c = true) : ∃ fs, optab.get? mn = some fs ∧ fieldsFit c fs = true := by
  cases hget : optab.get? mn with
  | none => cases c <;> simp_all [rowFits]
  | some fs => exact ⟨fs, rfl, by cases c <;> simp_all [rowFits]⟩

/-! ### The default tables -/

theorem defaultEngine_wf : engineWf defaultEngine = true := by decide +kernel

theorem defaultRealCat_ne_pseudo : ∀ row ∈ defaultRealCat, row.2 ≠ .P := by decide

/-- Every real row of the default tables has an `OPTAB` entry that fits its format. -/
theorem defaultOptab_fits {mn : Token} {c : Category} (hmem : (mn, c) ∈ defaultRealCat) :
    ∃ fs, defaultOptab.get? mn = some fs ∧ fieldsFit c fs = true := by
  obtain ⟨-, -, -, hfits, -⟩ := engineWf_iff.mp defaultEngine_wf
  exact rowFits_real (defaultRealCat_ne_pseudo _ hmem) (hfits (mn, c) (List.mem_append_left _ hmem))

theorem defaultEngine_holdsDefaultRows : HoldsDefaultRows defaultEngine := by
  rintro ⟨mn, c⟩ hmem
  obtain ⟨-, hcat, -, -, -⟩ := engineWf_iff.mp defaultEngine_wf
  obtain ⟨fs, hfs, -⟩ := defaultOptab_fits hmem
  exact ⟨fs, hfs, get?_of_keysDistinct hcat (List.mem_append_left _ hmem), hfs⟩

theorem defaultRegtab_keysDistinct : keysDistinct defaultRegtab = true := by
  obtain ⟨-, -, hregtab, -, -⟩ := engineWf_iff.mp defaultEngine_wf
  exact hregtab

/-- Each name `x0` to `x31` is a key of the default `REGTAB` (R32). -/
theorem regName_mem_defaultXNames : ∀ i : RegIdx, (regName i, i) ∈ defaultXNames := by decide +kernel

theorem defaultRegtab_get?_regName (i : RegIdx) : defaultRegtab.get? (regName i) = some i :=
  get?_of_keysDistinct defaultRegtab_keysDistinct (List.mem_append_left _ (regName_mem_defaultXNames i))

/-! ### The obligations -/

/-- Settles O10: the keys are distinct, so each row of the two lists is the one its name is read from. -/
theorem defaultRegisterNames : Obligations.DefaultRegisterNames :=
  ⟨defaultRegtab_get?_regName,
    fun _ hrow => get?_of_keysDistinct defaultRegtab_keysDistinct (List.mem_append_right _ hrow),
    rfl, of_decide_eq_true defaultRegtab_keysDistinct⟩

/-- Settles O11: R34's check evaluated on the default engine, and the rows that follow from it. -/
theorem defaultConfigurationIsWellFormed : Obligations.DefaultConfigurationIsWellFormed :=
  ⟨defaultEngine_wf, defaultEngine_holdsDefaultRows, rfl, rfl⟩

/-- Settles O47: the default engine is well formed, and no response has been given. -/
theorem resetMeetsTheInvariant : Obligations.ResetMeetsTheInvariant :=
  ⟨fun _ => defaultEngine_wf, fun _ hr => absurd hr List.not_mem_nil⟩

end Machine

end Sys2Proof
end

section
/-! Every instruction answers one response more (spec/10_state.md R20; spec/60_exceptions.md R278), and the words it answers
over the default rows are those of the opcode table (spec/30_encoding.md R62 to R72; spec/47_pseudo.md R221 to R231). -/

namespace Sys2Proof.Machine

/-- What is not malformed is delivered as one response, the same in every state. -/
theorem deliver_responds {r : Result (List Word)} (h : r ≠ .malformed) :
    ∃ a, ∀ s, deliver s r = .next (s.respond a) := by
  cases r with
  | ok ws => exact ⟨.words ws, fun _ => rfl⟩
  | err f => exact ⟨.error f, fun _ => rfl⟩
  | malformed => exact absurd rfl h

/-- The words of an instruction's steps are never malformed. -/
theorem instrWords_ne_malformed (e : Engine) (i : Instr) :
    (instrSteps e.params i).bind (encodeSteps e) ≠ .malformed := by
  simp [Result.bind_eq_malformed, instrSteps_ne_malformed, encodeSteps_ne_malformed]

/-- Settles O30: an instruction delivers its steps' words, which the engine and the instruction alone determine. -/
theorem instructionsOnlyRespond : Obligations.InstructionsOnlyRespond := by
  intro i s
  obtain ⟨r, hr⟩ := deliver_responds (instrWords_ne_malformed s.engine i)
  exact ⟨r, by rw [exec_eq_deliver, hr], fun s' he => by rw [exec_eq_deliver, he, hr]⟩

/-! ### The word of a step -/

theorem dstField_of_dstOk {r : Resolved} (h : r.dstOk = true) : dstField r = .ok r.bits := by
  cases r with
  | reg i => rfl
  | disp n => cases h

theorem srcField_of_srcOk {r : Resolved} (h : r.srcOk = true) : srcField r = .ok r.bits := by
  cases r with
  | reg i => rfl
  | disp n => exact srcField_disp_small (of_decide_eq_true h)

/-- Every slot and every integer of a step is one its format admits (R69 to R73, R106, R107). -/
def argsEncodable (p : Params) : Args → Bool
  | .regReg d a b => d.dstOk && a.srcOk && b.srcOk
  | .immediate d a v => d.dstOk && a.srcOk && imm12Ok v
  | .store b a v => b.srcOk && a.srcOk && imm12Ok v
  | .branch a b v => a.srcOk && b.srcOk && branchOk v
  | .upper d u => d.dstOk && upperOk u
  | .jump d v => d.dstOk && jumpOk p.jAlign v

/-- The word of admissible operands under a FieldSpec that has the fields of their format (R62 to R67). -/
def argsWord (fs : FieldSpec) : Args → Word
  | .regReg d a b => packR (fs.funct7.getD 0) b.bits a.bits (fs.funct3.getD 0) d.bits fs.opcode
  | .immediate d a v => packI (BitVec.ofInt 12 v) a.bits (fs.funct3.getD 0) d.bits fs.opcode
  | .store b a v => packS (BitVec.ofInt 12 v) b.bits a.bits (fs.funct3.getD 0) fs.opcode
  | .branch a b v => packB (BitVec.ofInt 13 v) b.bits a.bits (fs.funct3.getD 0) fs.opcode
  | .upper d u => packU (BitVec.ofInt 20 u) d.bits fs.opcode
  | .jump d v => packJ (BitVec.ofInt 21 v) d.bits fs.opcode

/-- A FieldSpec that has a funct3 leaves no choice of it (U6). -/
theorem funct3For_of_isSome {e : Engine} {st : RealStep} {fs : FieldSpec} (h : fs.funct3.isSome = true) :
    funct3For e st fs = fs.funct3.getD 0 := by
  obtain ⟨f, hf⟩ := Option.isSome_iff_exists.mp h
  simp [funct3For, hf]

/-- A FieldSpec that has a funct7 leaves no choice of it (U6). -/
theorem funct7For_of_isSome {e : Engine} {st : RealStep} {fs : FieldSpec} (h : fs.funct7.isSome = true) :
    funct7For e st fs = fs.funct7.getD 0 := by
  obtain ⟨f, hf⟩ := Option.isSome_iff_exists.mp h
  simp [funct7For, hf]

/-- A step whose row the engine holds, with the fields of its format, is encoded to its word. -/
theorem encodeStep_of_holdsRow {e : Engine} {mn : Token} {args : Args} {fs : FieldSpec}
    (hrow : HoldsRow e mn (argsFormat args) fs) (hfit : fieldsFit (argsFormat args) fs = true)
    (hok : argsEncodable e.params args = true) : encodeStep e ⟨mn, args⟩ = .ok (argsWord fs args) := by
  obtain ⟨hcat, hopt⟩ := hrow
  replace hcat := requireCategory_of_eq hcat
  replace hopt := lookup_of_some hopt
  cases args <;> simp only [argsFormat, fieldsFit, argsEncodable, Bool.and_eq_true] at hcat hfit hok
  case regReg d a b =>
    obtain ⟨⟨hd, ha⟩, hb⟩ := hok
    obtain ⟨h3, h7⟩ := hfit
    simp [encodeStep, encR, hcat, hopt, dstField_of_dstOk hd, srcField_of_srcOk ha, srcField_of_srcOk hb,
      funct3For_of_isSome h3, funct7For_of_isSome h7, argsWord]
  case immediate d a v =>
    obtain ⟨⟨hd, ha⟩, hv⟩ := hok
    simp [encodeStep, encI, hcat, hopt, dstField_of_dstOk hd, srcField_of_srcOk ha, hv, funct3For_of_isSome hfit.1,
      immField_eq_ofInt, argsWord]
  case store b a v =>
    obtain ⟨⟨hb, ha⟩, hv⟩ := hok
    simp [encodeStep, encS, hcat, hopt, srcField_of_srcOk hb, srcField_of_srcOk ha, hv, funct3For_of_isSome hfit.1,
      immField_eq_ofInt, argsWord]
  case branch a b v =>
    obtain ⟨⟨ha, hb⟩, hv⟩ := hok
    simp [encodeStep, encB, hcat, hopt, srcField_of_srcOk ha, srcField_of_srcOk hb, hv, funct3For_of_isSome hfit.1,
      branchField_eq_ofInt, argsWord]
  case upper d u =>
    obtain ⟨hd, hu⟩ := hok
    simp [encodeStep, encU, hcat, hopt, dstField_of_dstOk hd, hu, upperField_eq_ofInt, argsWord]
  case jump d v =>
    obtain ⟨hd, hv⟩ := hok
    simp [encodeStep, encJ, hcat, hopt, dstField_of_dstOk hd, hv, jumpField_eq_ofInt, argsWord]

/-- A step of a default row is encoded to its word over any engine that holds the default rows. -/
theorem encodeStep_of_defaultRow {e : Engine} {mn : Token} {args : Args} {c : Category} {fs : FieldSpec}
    (hrows : HoldsDefaultRows e) (hmem : (mn, c) ∈ defaultRealCat) (hfs : defaultOptab.get? mn = some fs)
    (hc : argsFormat args = c) (hok : argsEncodable e.params args = true) :
    encodeStep e ⟨mn, args⟩ = .ok (argsWord fs args) := by
  subst hc
  obtain ⟨fs', hfs', hrow⟩ := hrows _ hmem
  obtain ⟨fs'', hfs'', hfit⟩ := defaultOptab_fits hmem
  obtain rfl : fs = fs' := Option.some.inj (hfs.symm.trans hfs')
  obtain rfl : fs = fs'' := Option.some.inj (hfs.symm.trans hfs'')
  exact encodeStep_of_holdsRow hrow hfit hok

/-- An instruction of one step, a default row's, answers that step's word. -/
theorem exec_of_defaultRow {i : Instr} {s : State} {p : Params} {mn : Token} {args : Args} {c : Category}
    {fs : FieldSpec} (hrows : HoldsDefaultRows s.engine) (hp : s.engine.params = p) (hmem : (mn, c) ∈ defaultRealCat)
    (hsteps : instrSteps p i = .ok [⟨mn, args⟩]) (hfs : defaultOptab.get? mn = some fs) (hc : argsFormat args = c)
    (hword : encode i = [argsWord fs args]) (hok : argsEncodable p args = true) :
    exec i s = .next (s.respond (.words (encode i))) := by
  subst hp
  simp [exec_eq_deliver, hsteps, encodeSteps_single, encodeStep_of_defaultRow hrows hmem hfs hc hok, hword]

/-! ### The wide `li` (R221) -/

theorem srcOk_of_dstOk {r : Resolved} (h : r.dstOk = true) : r.srcOk = true := by
  cases r with
  | reg i => rfl
  | disp n => cases h

/-- Reading the low bits as a signed number keeps them (R11). -/
theorem sext_emod (n : Nat) (v : Int) : sext n v % 2 ^ n = v % 2 ^ n := by
  rw [sext]
  split
  · rw [Int.sub_emod_right, Int.emod_emod]
  · rw [Int.emod_emod]

/-- Every high part is an upper-immediate operand. -/
theorem upperOk_liHigh (v : Int) : upperOk (liHigh v) = true := by
  rw [upperOk_iff, liHigh]
  omega

/-- Every low part is a 12-bit immediate. -/
theorem imm12Ok_liLow (v : Int) : imm12Ok (liLow v) = true := by
  rw [imm12Ok_iff, liLow, sext]
  split <;> omega

/-- The high part of the 32-bit value, as the pattern of the opcode table writes it. -/
theorem ofInt_liHigh (v : Int) :
    BitVec.ofInt 20 (liHigh (v % 2 ^ 32)) = ((BitVec.ofInt 32 v + 2048#32) >>> 12).setWidth 20 := by
  apply BitVec.eq_of_toNat_eq
  simp only [liHigh, shr, BitVec.toNat_ofInt, BitVec.toNat_setWidth, BitVec.toNat_ushiftRight, BitVec.toNat_add,
    BitVec.toNat_ofNat, Nat.shiftRight_eq_div_pow]
  omega

/-- The low part of the 32-bit value, as the pattern of the opcode table writes it. -/
theorem ofInt_liLow (v : Int) : BitVec.ofInt 12 (liLow (v % 2 ^ 32)) = (BitVec.ofInt 32 v).setWidth 12 := by
  apply BitVec.eq_of_toNat_eq
  have hlow : liLow (v % 2 ^ 32) % 2 ^ 12 = v % 2 ^ 12 := by
    rw [liLow, sext_emod, slice, shr]
    omega
  simp only [BitVec.toNat_ofInt, BitVec.toNat_setWidth]
  omega

/-- The compensated split of a wide `li` answers its two words. -/
theorem exec_li_wide {d : Resolved} {v : Int} {s : State} (hrows : HoldsDefaultRows s.engine)
    (hp : s.engine.params = defaultParams) (hd : d.dstOk = true) (hv : imm12Ok v = false)
    (hrange : liRangeOk 32 v = true) :
    exec (.li d v) s = .next (s.respond (.words (wordsLiWide d (BitVec.ofInt 32 v)))) := by
  have hsteps : instrSteps s.engine.params (.li d v)
      = .ok [⟨"lui", .upper d (liHigh (v % 2 ^ 32))⟩, ⟨"addi", .immediate d d (liLow (v % 2 ^ 32))⟩] := by
    simp [hp, instrSteps, expandLi, hv, hrange, defaultParams, liWideSteps]
  have hlui := encodeStep_of_defaultRow (mn := "lui") (args := .upper d (liHigh (v % 2 ^ 32))) (c := .U) hrows
    (by decide) rfl rfl (by simp [argsEncodable, hd, upperOk_liHigh])
  have haddi := encodeStep_of_defaultRow (mn := "addi") (args := .immediate d d (liLow (v % 2 ^ 32))) (c := .I) hrows
    (by decide) rfl rfl (by simp [argsEncodable, hd, srcOk_of_dstOk, imm12Ok_liLow])
  simp only [exec_eq_deliver, hsteps, encodeSteps, hlui, haddi, Result.bind_ok, deliver_ok, argsWord, ofInt_liHigh,
    ofInt_liLow]
  rfl

/-- `li` with the default parameters answers the words of its two rows of the opcode table. -/
theorem exec_li {d : Resolved} {v : Int} {s : State} (hrows : HoldsDefaultRows s.engine)
    (hp : s.engine.params = defaultParams) (hok : (Instr.li d v).encodable defaultParams = true) :
    exec (.li d v) s = .next (s.respond (.words (encode (.li d v)))) := by
  simp only [Instr.encodable, liEncodable, Bool.and_eq_true] at hok
  obtain ⟨hd, hv⟩ := hok
  cases hsmall : imm12Ok v with
  | true =>
    exact exec_of_defaultRow (args := .immediate d (.reg 0) v) (c := .I) hrows hp (by decide) (if_pos hsmall) rfl rfl
      (if_pos hsmall) (by simp [argsEncodable, hd, hsmall, Resolved.srcOk])
  | false =>
    have hrange : liRangeOk 32 v = true := by simpa [hsmall, defaultParams] using hv
    simpa [encode, hsmall] using exec_li_wide hrows hp hd hsmall hrange

/-- Settles O32: each instruction is one step of a default row, but for the wide `li`, which is two. -/
theorem machineWordsAreTableWords : Obligations.MachineWordsAreTableWords := by
  intro i s hrows hp hok
  cases i with
  | add | sub | sll | slt | sltu | xor | srl | sra | or | and =>
    exact exec_of_defaultRow (c := .R) hrows hp (by decide) rfl rfl rfl rfl hok
  | addi | slti | sltiu | xori | ori | andi | lb | lh | lw | lbu | lhu | jalr =>
    exact exec_of_defaultRow (c := .I) hrows hp (by decide) rfl rfl rfl rfl hok
  | sb | sh | sw => exact exec_of_defaultRow (c := .S) hrows hp (by decide) rfl rfl rfl rfl hok
  | beq | bne | blt | bge | bltu | bgeu =>
    exact exec_of_defaultRow (c := .B) hrows hp (by decide) rfl rfl rfl rfl hok
  | lui | auipc | la => exact exec_of_defaultRow (c := .U) hrows hp (by decide) rfl rfl rfl rfl hok
  | jal | jlink | j => exact exec_of_defaultRow (c := .J) hrows hp (by decide) rfl rfl rfl rfl hok
  | li => exact exec_li hrows hp hok
  | nop | ret => exact exec_of_defaultRow (c := .I) hrows hp (by decide) rfl rfl rfl rfl rfl
  | mv | not =>
    exact exec_of_defaultRow (c := .I) hrows hp (by decide) rfl rfl rfl rfl 
      (by simpa [argsEncodable, Instr.encodable, imm12Ok] using hok)
  | neg =>
    exact exec_of_defaultRow (c := .R) hrows hp (by decide) rfl rfl rfl rfl 
      (by simpa [argsEncodable, Instr.encodable, Resolved.srcOk] using hok)
  | bgt | ble =>
    exact exec_of_defaultRow (c := .B) hrows hp (by decide) rfl rfl rfl rfl
      (by simpa [argsEncodable, Instr.encodable, and_comm] using hok)

end Sys2Proof.Machine
end

section
/-! Reading a spelled request back (spec/30_encoding.md R79, R80; spec/40_table_and_resolver.md R101 to R105;
spec/48_dispatcher.md R251 to R254). The operand tokens of an instruction are the tokens of its operand list, each token reads
back to its operand, and the mnemonic with the operand list determines the instruction. -/

namespace Sys2Proof

open Machine

/-! ### Operands and their tokens -/

/-- The token an operand is spelled with (R79, R80). -/
def Operand.token : Operand → Token
  | .reg r => resolvedToken r
  | .int v => integerToken v

/-- The kind of position an operand stands in (R253). -/
def Operand.kind : Operand → OperandKind
  | .reg _ => .reg
  | .int _ => .int

/-- An operand is one the operand reader can give (R102). -/
def Operand.inBounds (p : Params) : Operand → Bool
  | .reg r => r.inBounds p
  | .int _ => true

/-- The operands of an instruction, in request order (R79). -/
def Instr.operands : Instr → List Operand
  | .add a b c | .sub a b c | .sll a b c | .slt a b c | .sltu a b c => [.reg a, .reg b, .reg c]
  | .xor a b c | .srl a b c | .sra a b c | .or a b c | .and a b c => [.reg a, .reg b, .reg c]
  | .addi a b v | .slti a b v | .sltiu a b v | .xori a b v | .ori a b v | .andi a b v => [.reg a, .reg b, .int v]
  | .lb a b v | .lh a b v | .lw a b v | .lbu a b v | .lhu a b v | .jalr a b v => [.reg a, .reg b, .int v]
  | .sb a b v | .sh a b v | .sw a b v => [.reg a, .reg b, .int v]
  | .beq a b v | .bne a b v | .blt a b v | .bge a b v | .bltu a b v | .bgeu a b v => [.reg a, .reg b, .int v]
  | .lui a v | .auipc a v | .jal a v | .li a v | .la a v | .jlink a v => [.reg a, .int v]
  | .mv a b | .not a b | .neg a b => [.reg a, .reg b]
  | .nop | .ret => []
  | .j v => [.int v]
  | .bgt a b v | .ble a b v => [.reg a, .reg b, .int v]

theorem Instr.operandTokens_eq (i : Instr) : i.operandTokens = i.operands.map Operand.token := by
  cases i <;> rfl

theorem Instr.resolved_eq (p : Params) (i : Instr) : i.resolved p = i.operands.all (Operand.inBounds p) := by
  cases i <;> rfl

/-! ### A token reads back to its operand -/

namespace Machine

theorem bracketBody?_regName (i : RegIdx) : bracketBody? (regName i) = none := by
  simp [bracketBody?, regName]

theorem bracketBody?_disp (n : Nat) : bracketBody? (resolvedToken (.disp n)) = some (Nat.toDigits 10 n) :=
  bracketBody?_brackets _

/-- The token of a register or of a displacement within `DISP_MAX` resolves to it (R102, R103). -/
theorem resolve_resolvedToken {e : Engine} {r : Resolved} (hreg : e.regtab = defaultRegtab)
    (hb : r.inBounds e.params = true) : resolve e (resolvedToken r) = .ok r := by
  cases r with
  | reg i =>
    simp [resolve, bracketed?, resolvedToken, bracketBody?_regName, resolveName, hreg, defaultRegtab_get?_regName]
  | disp n =>
    have hn : n ≤ e.params.dispMax := of_decide_eq_true hb
    simp [resolve, bracketed?, bracketBody?_disp, digitsValue?_toDigits, hn]

/-- An operand's token fits its position. -/
theorem tokenFits_token (o : Operand) : tokenFits o.kind o.token = true := by
  rcases o with (i | n) | v
  · simp [Operand.kind, Operand.token, tokenFits, resolvedToken, bracketBody?_regName]
  · simp [Operand.kind, Operand.token, tokenFits, bracketBody?_disp, digitsValue?_toDigits]
  · simp [Operand.kind, Operand.token, tokenFits, integer?_integerToken]

/-- An operand's token is read as that operand. -/
theorem readOperand_token {e : Engine} {o : Operand} (hreg : e.regtab = defaultRegtab)
    (hb : o.inBounds e.params = true) : readOperand e o.kind o.token = .ok o := by
  cases o with
  | reg r => simp [Operand.kind, Operand.token, readOperand, resolve_resolvedToken hreg hb]
  | int v => simp [Operand.kind, Operand.token, readOperand, integer?_integerToken]

theorem shapeOk_tokens (ops : List Operand) : shapeOk (ops.map Operand.kind) (ops.map Operand.token) = true := by
  induction ops with
  | nil => rfl
  | cons o ops ih => simp [shapeOk, tokenFits_token, ih]

theorem readOperands_tokens {e : Engine} (hreg : e.regtab = defaultRegtab) {ops : List Operand}
    (hb : ops.all (Operand.inBounds e.params) = true) :
    readOperands e (ops.map Operand.kind) (ops.map Operand.token) = .ok ops := by
  induction ops with
  | nil => rfl
  | cons o ops ih =>
    simp only [List.all_cons, Bool.and_eq_true] at hb
    obtain ⟨ho, hops⟩ := hb
    simp [readOperands, readOperand_token hreg ho, ih hops]

/-- The tokens of an operand list pass the check of its shape and are read as the list (R253, R254). -/
theorem checkedOperands_tokens {e : Engine} (hreg : e.regtab = defaultRegtab) {ops : List Operand}
    (hb : ops.all (Operand.inBounds e.params) = true) :
    checkedOperands e (ops.map Operand.kind) (ops.map Operand.token) = .ok ops := by
  rw [checkedOperands, shapeOk_tokens, if_pos rfl, readOperands_tokens hreg hb]

/-! ### The decoder, by category -/

/-- A real mnemonic's request: its format's shape, then the instruction of its operands. -/
theorem decodeRequest_of_real {e : Engine} {mn : Token} {c : Category} (hc : e.cat.get? mn = some c) (hne : c ≠ .P)
    (toks : List Token) :
    decodeRequest e (mn :: toks) = (checkedOperands e (formatShape c) toks).bind (decodedReal mn c) := by
  cases c <;> simp_all [decodeRequest, classify_of_some hc]

/-- A pseudo-mnemonic's request: its own shape, then the instruction of its operands. -/
theorem decodeRequest_of_pseudo {e : Engine} {mn : Token} {k : PseudoOp} (hc : e.cat.get? mn = some .P)
    (hk : (pseudoSpellings e.params).get? mn = some k) (toks : List Token) :
    decodeRequest e (mn :: toks) = (checkedOperands e (pseudoShape k) toks).bind (decodedPseudo k) := by
  simp [decodeRequest, classify_of_some hc, hk]

/-! ### The mnemonic and the operands determine the instruction -/

/-- A real instruction: its mnemonic's row, its format's shape, and the instruction read from them. -/
def Spells.Real (i : Instr) (c : Category) : Prop :=
  c ≠ .P ∧ formatShape c = i.operands.map Operand.kind ∧
    ∀ p, (i.mnemonic p, c) ∈ defaultRealCat ∧ decodedReal (i.mnemonic p) c i.operands = .ok (.instr i)

/-- A pseudo-instruction: its spelling, its shape, and the instruction read from them. -/
def Spells.Pseudo (i : Instr) (k : PseudoOp) : Prop :=
  pseudoShape k = i.operands.map Operand.kind ∧ instrOfPseudo k i.operands = some i ∧
    ∀ p, (i.mnemonic p, k) ∈ pseudoSpellings p

theorem spells_real_or_pseudo (i : Instr) : (∃ c, Spells.Real i c) ∨ ∃ k, Spells.Pseudo i k := by
  cases i with
  | add | sub | sll | slt | sltu | xor | srl | sra | or | and =>
    exact .inl ⟨.R, by decide, rfl, fun _ => ⟨by simp [defaultRealCat, Instr.mnemonic], rfl⟩⟩
  | addi | slti | sltiu | xori | ori | andi | lb | lh | lw | lbu | lhu | jalr =>
    exact .inl ⟨.I, by decide, rfl, fun _ => ⟨by simp [defaultRealCat, Instr.mnemonic], rfl⟩⟩
  | sb | sh | sw => exact .inl ⟨.S, by decide, rfl, fun _ => ⟨by simp [defaultRealCat, Instr.mnemonic], rfl⟩⟩
  | beq | bne | blt | bge | bltu | bgeu =>
    exact .inl ⟨.B, by decide, rfl, fun _ => ⟨by simp [defaultRealCat, Instr.mnemonic], rfl⟩⟩
  | lui | auipc => exact .inl ⟨.U, by decide, rfl, fun _ => ⟨by simp [defaultRealCat, Instr.mnemonic], rfl⟩⟩
  | jal => exact .inl ⟨.J, by decide, rfl, fun _ => ⟨by simp [defaultRealCat, Instr.mnemonic], rfl⟩⟩
  | li => exact .inr ⟨.li, rfl, rfl, fun _ => by simp [pseudoSpellings, Instr.mnemonic]⟩
  | mv => exact .inr ⟨.mv, rfl, rfl, fun _ => by simp [pseudoSpellings, Instr.mnemonic]⟩
  | nop => exact .inr ⟨.nop, rfl, rfl, fun _ => by simp [pseudoSpellings, Instr.mnemonic]⟩
  | not => exact .inr ⟨.not, rfl, rfl, fun _ => by simp [pseudoSpellings, Instr.mnemonic]⟩
  | neg => exact .inr ⟨.neg, rfl, rfl, fun _ => by simp [pseudoSpellings, Instr.mnemonic]⟩
  | la => exact .inr ⟨.la, rfl, rfl, fun _ => by simp [pseudoSpellings, Instr.mnemonic]⟩
  | j => exact .inr ⟨.j, rfl, rfl, fun _ => by simp [pseudoSpellings, Instr.mnemonic]⟩
  | jlink => exact .inr ⟨.jlink, rfl, rfl, fun _ => by simp [pseudoSpellings, Instr.mnemonic]⟩
  | ret => exact .inr ⟨.ret, rfl, rfl, fun _ => by simp [pseudoSpellings, Instr.mnemonic]⟩
  | bgt => exact .inr ⟨.bgt, rfl, rfl, fun _ => by simp [pseudoSpellings, Instr.mnemonic]⟩
  | ble => exact .inr ⟨.ble, rfl, rfl, fun _ => by simp [pseudoSpellings, Instr.mnemonic]⟩

/-! ### The spelling of the second jump -/

/-- The pseudo-mnemonics of the default `CAT` are the eleven spellings, in another order (R33). -/
theorem pseudoSpellings_keys_perm (p : Params) :
    ((pseudoSpellings p).map Prod.fst).Perm ((defaultPseudoCat p.spellJlink).map Prod.fst) :=
  .append_left ["li", "mv", "nop", "not", "neg", "la", "j"]
    (List.perm_append_comm (l₁ := ["ret", "bgt", "ble"]) (l₂ := [p.spellJlink]))

/-- A spelling that is no other mnemonic's keeps the eleven spellings apart. -/
theorem pseudoSpellings_keysDistinct {p : Params} (h : keysDistinct (defaultCat p.spellJlink) = true) :
    keysDistinct (pseudoSpellings p) = true := by
  have hall : ((defaultCat p.spellJlink).map Prod.fst).Nodup := of_decide_eq_true h
  rw [defaultCat, List.map_append] at hall
  exact decide_eq_true ((pseudoSpellings_keys_perm p).nodup_iff.mpr hall.of_append_right)

/-- Each of the eleven spellings has its row of category `P` in the default `CAT`. -/
theorem mem_defaultPseudoCat {p : Params} {mn : Token} {k : PseudoOp} (h : (mn, k) ∈ pseudoSpellings p) :
    (mn, Category.P) ∈ defaultPseudoCat p.spellJlink := by
  have hkey : mn ∈ (defaultPseudoCat p.spellJlink).map Prod.fst :=
    (pseudoSpellings_keys_perm p).mem_iff.mp (List.mem_map_of_mem h)
  simpa [defaultPseudoCat] using hkey

/-- Settles O2: the operand tokens read back to the operands, and the mnemonic, in either half of the table, with its operands
is the instruction. -/
theorem spelledRequestDecodes : Obligations.SpelledRequestDecodes := by
  intro e i hcat hreg hdistinct hresolved
  have hops := checkedOperands_tokens hreg (i.resolved_eq e.params ▸ hresolved)
  rw [spell, i.operandTokens_eq]
  rcases spells_real_or_pseudo i with ⟨c, hne, hshape, hreal⟩ | ⟨k, hshape, hinstr, hspelled⟩
  · obtain ⟨hmem, hread⟩ := hreal e.params
    have hc : e.cat.get? (i.mnemonic e.params) = some c := by
      rw [hcat]
      exact get?_of_keysDistinct hdistinct (List.mem_append_left _ hmem)
    rw [decodeRequest_of_real hc hne, hshape, hops, Result.bind_ok, hread]
  · have hmem := hspelled e.params
    have hc : e.cat.get? (i.mnemonic e.params) = some .P := by
      rw [hcat]
      exact get?_of_keysDistinct hdistinct (List.mem_append_right _ (mem_defaultPseudoCat hmem))
    have hk := get?_of_keysDistinct (pseudoSpellings_keysDistinct hdistinct) hmem
    rw [decodeRequest_of_pseudo hc hk, hshape, hops, Result.bind_ok, decodedPseudo, hinstr]

end Machine

end Sys2Proof
end

section
/-! A request's outcome depends on the engine and the request alone, and before construction is complete there is none
(spec/20_memory.md R47, R50; spec/48_dispatcher.md R258; spec/70_reset_and_hazards.md R302). The idea of the first: a step of a
ready engine delivers words that are computed from the engine and the request, and delivery reads nothing of the state. -/

namespace Sys2Proof.Machine

/-! ### What a step delivers -/

/-- The words of what a request asks for: none, those of an instruction's steps, or the one word of a configured mnemonic. -/
def decodedWords (e : Engine) : Decoded → Result (List Word)
  | .blank => .ok []
  | .instr i => (instrSteps e.params i).bind (encodeSteps e)
  | .configured st => (encodeStep e st).bind fun w => .ok [w]

/-- The words of a request: those of what it decodes to. -/
def requestWords (e : Engine) (q : Request) : Result (List Word) := (decodeRequest e q).bind (decodedWords e)

theorem serveDecoded_eq_deliver (s : State) (d : Result Decoded) :
    serveDecoded s d = deliver s (d.bind (decodedWords s.engine)) := by
  match d with
  | .ok .blank => rfl
  | .ok (.instr i) => exact exec_eq_deliver i s
  | .ok (.configured _) => rfl
  | .err _ => rfl
  | .malformed => rfl

/-- A step of a ready engine takes its next request and delivers that request's words. -/
theorem step_eq_deliver {s : State} {q : Request} {rest : List Request} (hready : s.phase = .ready)
    (hq : s.requests = q :: rest) : step s = deliver (s.withRequests rest) (requestWords s.engine q) := by
  have hserve : step s = serveDecoded (s.withRequests rest) (decodeRequest s.engine q) := by
    simp [step, serveNext, hready, hq]
  rw [hserve, serveDecoded_eq_deliver, withRequests_engine, requestWords]

/-! ### Before construction is complete -/

theorem step_of_not_ready {s : State} (hphase : s.phase ≠ .ready) (hreq : s.requests ≠ []) :
    step s = .refused .notConstructed := by
  rcases step_cases s with ⟨hnil, -⟩ | ⟨_, _, -, -, hstep⟩ | ⟨_, _, -, hready, -⟩
  · exact absurd hnil hreq
  · exact hstep
  · exact absurd hready hphase

/-- Construction does not start over a request already made (R50). -/
theorem construct_of_pending {s : State} (hphase : s.phase ≠ .ready) (hreq : s.requests ≠ []) :
    construct s = .refused .notConstructed := by
  cases hp : s.phase with
  | loading done => simp [construct, hp, hreq]
  | ready => exact absurd hp hphase

/-! ### The obligations -/

/-- Settles O45: both states deliver the same words, which are one response in every state unless they are malformed. -/
theorem outcomeDependsOnRequestAlone : Obligations.OutcomeDependsOnRequestAlone := by
  intro s s' q rest rest' hready hready' hengine hq hq'
  rw [step_eq_deliver hready hq, step_eq_deliver hready' hq', hengine]
  by_cases hmal : requestWords s.engine q = .malformed
  · exact .inr (by simp [hmal])
  · obtain ⟨r, hr⟩ := deliver_responds hmal
    exact .inl ⟨r, hr _, hr _⟩

/-- Settles O15: a submission is refused or goes to the end of the requests by the phase, and a request that stands before
construction is complete stops the step and the construction. -/
theorem requestBeforeConstructionIsRefused : Obligations.RequestBeforeConstructionIsRefused := by
  intro s q
  refine ⟨fun hphase => ?_, fun hphase hreq => ?_, fun hready => ?_⟩
  · exact ((submit_cases q s).resolve_left fun h => hphase h.1).2
  · exact ⟨step_of_not_ready hphase hreq, construct_of_pending hphase hreq⟩
  · exact ((submit_cases q s).resolve_right fun h => h.1 hready).2

end Sys2Proof.Machine
end

section
/-! The fields and the immediates of a word (spec/30_encoding.md R61 to R75). The idea: every layout is the layout of format R
with its immediate split over the slots R61 gives to funct7, rs2, rs1, funct3 and rd, so that a field sits in every layout
where it sits in format R; and reading an immediate back glues its pieces together again. -/

namespace Sys2Proof.Machine

/-! ### Format R, field by field -/

section
variable (f7 : BitVec 7) (s2 s1 : RegIdx) (f3 : BitVec 3) (d : RegIdx) (op : BitVec 7)

@[simp] theorem opcodeOf_packR : opcodeOf (packR f7 s2 s1 f3 d op) = op := BitVec.extractLsb'_append_eq_right

@[simp] theorem rdOf_packR : rdOf (packR f7 s2 s1 f3 d op) = d := by
  rw [rdOf, packR, BitVec.extractLsb'_append_eq_of_le (by decide)]
  exact BitVec.extractLsb'_append_eq_right

@[simp] theorem funct3Of_packR : funct3Of (packR f7 s2 s1 f3 d op) = f3 := by
  rw [funct3Of, packR]
  iterate 2 rw [BitVec.extractLsb'_append_eq_of_le (by decide)]
  exact BitVec.extractLsb'_append_eq_right

@[simp] theorem rs1Of_packR : rs1Of (packR f7 s2 s1 f3 d op) = s1 := by
  rw [rs1Of, packR]
  iterate 3 rw [BitVec.extractLsb'_append_eq_of_le (by decide)]
  exact BitVec.extractLsb'_append_eq_right

@[simp] theorem rs2Of_packR : rs2Of (packR f7 s2 s1 f3 d op) = s2 := by
  rw [rs2Of, packR]
  iterate 4 rw [BitVec.extractLsb'_append_eq_of_le (by decide)]
  exact BitVec.extractLsb'_append_eq_right

@[simp] theorem funct7Of_packR : funct7Of (packR f7 s2 s1 f3 d op) = f7 := by
  rw [funct7Of, packR]
  iterate 4 rw [BitVec.extractLsb'_append_eq_of_le (by decide)]
  exact BitVec.extractLsb'_append_eq_left

end

/-- The six fields of format R are the whole word. -/
theorem packR_of_fields (w : Word) :
    packR (funct7Of w) (rs2Of w) (rs1Of w) (funct3Of w) (rdOf w) (opcodeOf w) = w := by
  rw [packR, funct7Of, rs2Of, rs1Of, funct3Of, rdOf, opcodeOf]
  iterate 5 rw [BitVec.extractLsb'_append_extractLsb'_eq_extractLsb' (by decide)]
  exact BitVec.extractLsb'_eq_self

/-! ### The other layouts as layouts of format R -/

theorem packI_eq_packR (f : BitVec 12) (s1 : RegIdx) (f3 : BitVec 3) (d : RegIdx) (op : BitVec 7) :
    packI f s1 f3 d op = packR (f.extractLsb' 5 7) (f.extractLsb' 0 5) s1 f3 d op :=
  congrArg (packI · s1 f3 d op) (BitVec.extractLsb'_append_extractLsb' (w := 7) (len := 5) (x := f)).symm

theorem packS_eq_packR (f : BitVec 12) (s2 s1 : RegIdx) (f3 : BitVec 3) (op : BitVec 7) :
    packS f s2 s1 f3 op = packR (f.extractLsb' 5 7) s2 s1 f3 (f.extractLsb' 0 5) op := rfl

/-- What format B's layout puts in the slot of funct7. -/
def splitBHigh (b : BitVec 13) : BitVec 7 := b.extractLsb' 12 1 ++ b.extractLsb' 5 6

/-- What format B's layout puts in the slot of rd. -/
def splitBLow (b : BitVec 13) : BitVec 5 := b.extractLsb' 1 4 ++ b.extractLsb' 11 1

/-- What format J's layout puts in `w[31:12]`. -/
def splitJ (j : BitVec 21) : BitVec 20 :=
  j.extractLsb' 20 1 ++ j.extractLsb' 1 10 ++ j.extractLsb' 11 1 ++ j.extractLsb' 12 8

theorem packB_eq_packR (b : BitVec 13) (s2 s1 : RegIdx) (f3 : BitVec 3) (op : BitVec 7) :
    packB b s2 s1 f3 op = packR (splitBHigh b) s2 s1 f3 (splitBLow b) op :=
  congrArg (· ++ op) BitVec.append_assoc

theorem packU_eq_packI (u : BitVec 20) (d : RegIdx) (op : BitVec 7) :
    packU u d op = packI (u.extractLsb' 8 12) (u.extractLsb' 3 5) (u.extractLsb' 0 3) d op := by
  rw [packI]
  iterate 2 rw [BitVec.extractLsb'_append_extractLsb'_eq_extractLsb' (by decide)]
  rw [BitVec.extractLsb'_eq_self]
  rfl

theorem packJ_eq_packU (j : BitVec 21) (d : RegIdx) (op : BitVec 7) : packJ j d op = packU (splitJ j) d op := rfl

/-- The fields of format I. -/
@[simp] theorem fields_packI (f : BitVec 12) (s1 : RegIdx) (f3 : BitVec 3) (d : RegIdx) (op : BitVec 7) :
    opcodeOf (packI f s1 f3 d op) = op ∧ rdOf (packI f s1 f3 d op) = d ∧ funct3Of (packI f s1 f3 d op) = f3
      ∧ rs1Of (packI f s1 f3 d op) = s1 := by
  simp [packI_eq_packR]

/-- The fields of format S. -/
@[simp] theorem fields_packS (f : BitVec 12) (s2 s1 : RegIdx) (f3 : BitVec 3) (op : BitVec 7) :
    opcodeOf (packS f s2 s1 f3 op) = op ∧ funct3Of (packS f s2 s1 f3 op) = f3 ∧ rs1Of (packS f s2 s1 f3 op) = s1
      ∧ rs2Of (packS f s2 s1 f3 op) = s2 := by
  simp [packS_eq_packR]

/-- The fields of format B. -/
@[simp] theorem fields_packB (b : BitVec 13) (s2 s1 : RegIdx) (f3 : BitVec 3) (op : BitVec 7) :
    opcodeOf (packB b s2 s1 f3 op) = op ∧ funct3Of (packB b s2 s1 f3 op) = f3 ∧ rs1Of (packB b s2 s1 f3 op) = s1
      ∧ rs2Of (packB b s2 s1 f3 op) = s2 := by
  simp [packB_eq_packR]

/-- The fields of format U. -/
@[simp] theorem fields_packU (u : BitVec 20) (d : RegIdx) (op : BitVec 7) :
    opcodeOf (packU u d op) = op ∧ rdOf (packU u d op) = d := by
  simp [packU_eq_packI]

/-- The fields of format J. -/
@[simp] theorem fields_packJ (j : BitVec 21) (d : RegIdx) (op : BitVec 7) :
    opcodeOf (packJ j d op) = op ∧ rdOf (packJ j d op) = d := by
  simp [packJ_eq_packU]

/-- Settles O5: each layout is format R's with the immediate in the other slots, so its fields are format R's. -/
theorem fieldsSitAtTheirBits : Obligations.FieldsSitAtTheirBits := by
  intro f7 op s2 s1 d f3 i12 b13 u20 j21
  simp only [opcodeOf_packR, rdOf_packR, funct3Of_packR, rs1Of_packR, rs2Of_packR, funct7Of_packR, fields_packI,
    fields_packS, fields_packB, fields_packU, fields_packJ, and_self]

/-! ### The bits of an immediate, glued from its pieces (R75) -/

/-- Format I: `w[31:20]`. -/
def immIBits (w : Word) : BitVec 12 := w.extractLsb' 20 12

/-- Format S: `w[31:25] ++ w[11:7]`. -/
def immSBits (w : Word) : BitVec 12 := funct7Of w ++ rdOf w

/-- Format B: the offset of an even number of bytes whose pieces stand in the slots of funct7 and of rd. -/
def glueB (hi : BitVec 7) (lo : BitVec 5) : BitVec 13 :=
  hi.extractLsb' 6 1 ++ lo.extractLsb' 0 1 ++ hi.extractLsb' 0 6 ++ lo.extractLsb' 1 4 ++ 0#1

/-- Format U: `w[31:12]`. -/
def upperBits (w : Word) : BitVec 20 := w.extractLsb' 12 20

/-- Format J: the offset of an even number of bytes whose pieces stand in `w[31:12]`. -/
def glueJ (u : BitVec 20) : BitVec 21 :=
  u.extractLsb' 19 1 ++ u.extractLsb' 0 8 ++ u.extractLsb' 8 1 ++ u.extractLsb' 9 10 ++ 0#1

/-- A slice of a slice is a slice. -/
theorem extractLsb'_extractLsb' {n s l s' l' : Nat} (x : BitVec n) (h : s' + l' ≤ l) :
    (x.extractLsb' s l).extractLsb' s' l' = x.extractLsb' (s + s') l' := by
  ext i hi
  simp [Nat.add_assoc, show s' + i < l by omega]

theorem immIOf_eq (w : Word) : immIOf w = (immIBits w).toInt := rfl
theorem immSOf_eq (w : Word) : immSOf w = (immSBits w).toInt := rfl
theorem upperOf_eq (w : Word) : upperOf w = (upperBits w).toNat := rfl

theorem offBOf_eq (w : Word) : offBOf w = (glueB (funct7Of w) (rdOf w)).toInt := by
  simp [offBOf, glueB, funct7Of, rdOf, extractLsb'_extractLsb']

theorem offJOf_eq (w : Word) : offJOf w = (glueJ (upperBits w)).toInt := by
  simp [offJOf, glueJ, upperBits, extractLsb'_extractLsb']

theorem immIBits_packI (f : BitVec 12) (s1 : RegIdx) (f3 : BitVec 3) (d : RegIdx) (op : BitVec 7) :
    immIBits (packI f s1 f3 d op) = f := by
  rw [immIBits, packI]
  iterate 3 rw [BitVec.extractLsb'_append_eq_of_le (by decide)]
  exact BitVec.extractLsb'_append_eq_left

theorem immSBits_packS (f : BitVec 12) (s2 s1 : RegIdx) (f3 : BitVec 3) (op : BitVec 7) :
    immSBits (packS f s2 s1 f3 op) = f := by
  rw [immSBits, packS_eq_packR, funct7Of_packR, rdOf_packR]
  exact BitVec.extractLsb'_append_extractLsb'

theorem upperBits_packU (u : BitVec 20) (d : RegIdx) (op : BitVec 7) : upperBits (packU u d op) = u := by
  rw [upperBits, packU, BitVec.extractLsb'_append_eq_of_le (by decide)]
  exact BitVec.extractLsb'_append_eq_left

/-- Gluing what format B's layout splits: only bit 0, which it does not store, is lost. -/
theorem glueB_split (b : BitVec 13) : glueB (splitBHigh b) (splitBLow b) = b.extractLsb' 1 12 ++ 0#1 := by
  rw [glueB, splitBHigh, splitBLow, BitVec.extractLsb'_append_eq_left (w := 1) (w' := 6),
    BitVec.extractLsb'_append_eq_right (w := 1) (w' := 6), BitVec.extractLsb'_append_eq_left (w := 4) (w' := 1),
    BitVec.extractLsb'_append_eq_right (w := 4) (w' := 1)]
  iterate 3 rw [BitVec.extractLsb'_append_extractLsb'_eq_extractLsb' (by decide)]

theorem splitBHigh_glueB (hi : BitVec 7) (lo : BitVec 5) : splitBHigh (glueB hi lo) = hi := by
  have h12 : (glueB hi lo).extractLsb' 12 1 = hi.extractLsb' 6 1 := by
    rw [glueB]
    iterate 3 rw [BitVec.extractLsb'_append_eq_of_le (by decide)]
    exact BitVec.extractLsb'_append_eq_left
  have h5 : (glueB hi lo).extractLsb' 5 6 = hi.extractLsb' 0 6 := by
    rw [glueB]
    iterate 2 rw [BitVec.extractLsb'_append_eq_of_le (by decide)]
    exact BitVec.extractLsb'_append_eq_right
  rw [splitBHigh, h12, h5]
  exact BitVec.extractLsb'_append_extractLsb'

theorem splitBLow_glueB (hi : BitVec 7) (lo : BitVec 5) : splitBLow (glueB hi lo) = lo := by
  have h1 : (glueB hi lo).extractLsb' 1 4 = lo.extractLsb' 1 4 := by
    rw [glueB, BitVec.extractLsb'_append_eq_of_le (by decide)]
    exact BitVec.extractLsb'_append_eq_right
  have h11 : (glueB hi lo).extractLsb' 11 1 = lo.extractLsb' 0 1 := by
    rw [glueB]
    iterate 3 rw [BitVec.extractLsb'_append_eq_of_le (by decide)]
    exact BitVec.extractLsb'_append_eq_right
  rw [splitBLow, h1, h11]
  exact BitVec.extractLsb'_append_extractLsb'

/-- Gluing what format J's layout splits: only bit 0, which it does not store, is lost. -/
theorem glueJ_splitJ (j : BitVec 21) : glueJ (splitJ j) = j.extractLsb' 1 20 ++ 0#1 := by
  have h19 : (splitJ j).extractLsb' 19 1 = j.extractLsb' 20 1 := by
    rw [splitJ]
    iterate 2 rw [BitVec.extractLsb'_append_eq_of_le (by decide)]
    exact BitVec.extractLsb'_append_eq_left
  have h0 : (splitJ j).extractLsb' 0 8 = j.extractLsb' 12 8 := BitVec.extractLsb'_append_eq_right
  have h8 : (splitJ j).extractLsb' 8 1 = j.extractLsb' 11 1 := by
    rw [splitJ, BitVec.extractLsb'_append_eq_of_le (by decide)]
    exact BitVec.extractLsb'_append_eq_right
  have h9 : (splitJ j).extractLsb' 9 10 = j.extractLsb' 1 10 := by
    rw [splitJ]
    iterate 2 rw [BitVec.extractLsb'_append_eq_of_le (by decide)]
    exact BitVec.extractLsb'_append_eq_right
  rw [glueJ, h19, h0, h8, h9]
  iterate 3 rw [BitVec.extractLsb'_append_extractLsb'_eq_extractLsb' (by decide)]

theorem splitJ_glueJ (u : BitVec 20) : splitJ (glueJ u) = u := by
  have h20 : (glueJ u).extractLsb' 20 1 = u.extractLsb' 19 1 := by
    rw [glueJ]
    iterate 3 rw [BitVec.extractLsb'_append_eq_of_le (by decide)]
    exact BitVec.extractLsb'_append_eq_left
  have h1 : (glueJ u).extractLsb' 1 10 = u.extractLsb' 9 10 := by
    rw [glueJ, BitVec.extractLsb'_append_eq_of_le (by decide)]
    exact BitVec.extractLsb'_append_eq_right
  have h11 : (glueJ u).extractLsb' 11 1 = u.extractLsb' 8 1 := by
    rw [glueJ]
    iterate 2 rw [BitVec.extractLsb'_append_eq_of_le (by decide)]
    exact BitVec.extractLsb'_append_eq_right
  have h12 : (glueJ u).extractLsb' 12 8 = u.extractLsb' 0 8 := by
    rw [glueJ]
    iterate 3 rw [BitVec.extractLsb'_append_eq_of_le (by decide)]
    exact BitVec.extractLsb'_append_eq_right
  rw [splitJ, h20, h1, h11, h12]
  iterate 3 rw [BitVec.extractLsb'_append_extractLsb'_eq_extractLsb' (by decide)]
  exact BitVec.extractLsb'_eq_self

/-! ### Packing the fields of a word gives the word -/

theorem packI_of_fields (w : Word) : packI (immIBits w) (rs1Of w) (funct3Of w) (rdOf w) (opcodeOf w) = w := by
  rw [packI, immIBits, rs1Of, funct3Of, rdOf, opcodeOf]
  iterate 4 rw [BitVec.extractLsb'_append_extractLsb'_eq_extractLsb' (by decide)]
  exact BitVec.extractLsb'_eq_self

theorem packS_of_fields (w : Word) : packS (immSBits w) (rs2Of w) (rs1Of w) (funct3Of w) (opcodeOf w) = w := by
  rw [packS_eq_packR, immSBits, BitVec.extractLsb'_append_eq_left (w := 7) (w' := 5),
    BitVec.extractLsb'_append_eq_right (w := 7) (w' := 5), packR_of_fields]

theorem packB_of_fields (w : Word) :
    packB (glueB (funct7Of w) (rdOf w)) (rs2Of w) (rs1Of w) (funct3Of w) (opcodeOf w) = w := by
  rw [packB_eq_packR, splitBHigh_glueB, splitBLow_glueB, packR_of_fields]

theorem packU_of_fields (w : Word) : packU (upperBits w) (rdOf w) (opcodeOf w) = w := by
  rw [packU, upperBits, rdOf, opcodeOf]
  iterate 2 rw [BitVec.extractLsb'_append_extractLsb'_eq_extractLsb' (by decide)]
  exact BitVec.extractLsb'_eq_self

theorem packJ_of_fields (w : Word) : packJ (glueJ (upperBits w)) (rdOf w) (opcodeOf w) = w := by
  rw [packJ_eq_packU, splitJ_glueJ, packU_of_fields]

/-! ### Every legal immediate reads back (R68 to R75) -/

/-- An even number of `n + 1` bits is its upper `n` bits and a zero. -/
theorem append_zero_of_even {n : Nat} {b : BitVec (n + 1)} (h : b.extractLsb' 0 1 = 0#1) :
    b.extractLsb' 1 n ++ 0#1 = b := by
  rw [← h]
  exact BitVec.extractLsb'_append_extractLsb'

theorem extractLsb'_ofInt_even {n : Nat} {v : Int} (h : v % 2 = 0) :
    (BitVec.ofInt (n + 1) v).extractLsb' 0 1 = 0#1 := by
  have hmod : v % 2 ^ (n + 1) % 2 = v % 2 := Int.emod_emod_of_dvd v ⟨2 ^ n, by rw [pow_succ, mul_comm]⟩
  have hbit : (v % 2 ^ (n + 1)).toNat % 2 = 0 := by omega
  exact BitVec.eq_of_toNat_eq (by simpa [BitVec.toNat_ofInt] using hbit)

theorem toInt_append_zero_even {n : Nat} (x : BitVec n) : (x ++ 0#1).toInt % 2 = 0 := by
  have hnat : (x ++ 0#1).toNat = 2 * x.toNat := by simp [Nat.shiftLeft_eq, Nat.mul_comm]
  rw [BitVec.toInt_eq_toNat_cond, hnat, pow_succ]
  split <;> omega

/-- What format B glues is an even number. -/
theorem offBOf_even (w : Word) : offBOf w % 2 = 0 := toInt_append_zero_even _

/-- What format J glues is an even number. -/
theorem offJOf_even (w : Word) : offJOf w % 2 = 0 := toInt_append_zero_even _

theorem immIOf_packI {v : Int} (hv : imm12Ok v = true) (s1 : RegIdx) (f3 : BitVec 3) (d : RegIdx) (op : BitVec 7) :
    immIOf (packI (BitVec.ofInt 12 v) s1 f3 d op) = v := by
  obtain ⟨hlo, hhi⟩ := imm12Ok_iff.mp hv
  rw [immIOf_eq, immIBits_packI, BitVec.toInt_ofInt_eq_self (by decide) hlo (by omega)]

theorem immSOf_packS {v : Int} (hv : imm12Ok v = true) (s2 s1 : RegIdx) (f3 : BitVec 3) (op : BitVec 7) :
    immSOf (packS (BitVec.ofInt 12 v) s2 s1 f3 op) = v := by
  obtain ⟨hlo, hhi⟩ := imm12Ok_iff.mp hv
  rw [immSOf_eq, immSBits_packS, BitVec.toInt_ofInt_eq_self (by decide) hlo (by omega)]

theorem offBOf_packB {v : Int} (hv : branchOk v = true) (s2 s1 : RegIdx) (f3 : BitVec 3) (op : BitVec 7) :
    offBOf (packB (BitVec.ofInt 13 v) s2 s1 f3 op) = v := by
  obtain ⟨hlo, hhi, heven⟩ := branchOk_iff.mp hv
  rw [offBOf_eq, packB_eq_packR, funct7Of_packR, rdOf_packR, glueB_split,
    append_zero_of_even (extractLsb'_ofInt_even heven), BitVec.toInt_ofInt_eq_self (by decide) hlo (by omega)]

theorem upperOf_packU (u : Int) (d : RegIdx) (op : BitVec 7) :
    upperOf (packU (BitVec.ofInt 20 u) d op) = u % 1048576 := by
  rw [upperOf_eq, upperBits_packU, BitVec.toNat_ofInt]
  omega

/-- Both divisors `J_ALIGN` can be are even (R72). -/
theorem even_of_jAligned {a : JAlign} {v : Int} (h : v % jAlignBytes a = 0) : v % 2 = 0 := by
  cases a <;> simp only [jAlignBytes] at h <;> omega

theorem offJOf_packJ {a : JAlign} {v : Int} (hv : jumpOk a v = true) (d : RegIdx) (op : BitVec 7) :
    offJOf (packJ (BitVec.ofInt 21 v) d op) = v := by
  obtain ⟨hlo, hhi, halign⟩ := jumpOk_iff.mp hv
  rw [offJOf_eq, packJ_eq_packU, upperBits_packU, glueJ_splitJ,
    append_zero_of_even (extractLsb'_ofInt_even (even_of_jAligned halign)),
    BitVec.toInt_ofInt_eq_self (by decide) hlo (by omega)]

/-! ### What is read back is legal, and its field is the one it was read from -/

theorem imm12Ok_toInt (f : BitVec 12) : imm12Ok f.toInt = true :=
  imm12Ok_iff.mpr ⟨f.le_toInt, Int.lt_add_one_iff.mp f.toInt_lt⟩

theorem branchOk_offBOf (w : Word) : branchOk (offBOf w) = true := by
  have heven := offBOf_even w
  have hhi : offBOf w < 4096 := BitVec.toInt_lt
  exact branchOk_iff.mpr ⟨BitVec.le_toInt _, by omega, heven⟩

theorem upperOk_upperOf (w : Word) : upperOk (upperOf w) = true := by
  have hlt := (upperBits w).isLt
  rw [upperOk_iff, upperOf_eq]
  omega

theorem jumpOk_offJOf (w : Word) : jumpOk .two (offJOf w) = true := by
  have heven := offJOf_even w
  have hhi : offJOf w < 1048576 := BitVec.toInt_lt
  exact jumpOk_iff.mpr ⟨BitVec.le_toInt _, by omega, heven⟩

/-! ### The obligations on immediates -/

/-- Settles O6: each field is the operand cut to the field's width, and a legal operand fits the width. -/
theorem immediatesReadBack : Obligations.ImmediatesReadBack := by
  intro v s2 s1 d f3 op a
  rw [immField_eq_ofInt, branchField_eq_ofInt, upperField_eq_ofInt, jumpField_eq_ofInt]
  exact ⟨fun hlo hhi => immIOf_packI (imm12Ok_iff.mpr ⟨hlo, hhi⟩) ..,
    fun hlo hhi => immSOf_packS (imm12Ok_iff.mpr ⟨hlo, hhi⟩) ..,
    fun hlo hhi heven => offBOf_packB (branchOk_iff.mpr ⟨hlo, hhi, heven⟩) ..,
    fun _ _ => upperOf_packU ..,
    fun hlo hhi halign => offJOf_packJ (jumpOk_iff.mpr ⟨hlo, hhi, halign⟩) ..⟩

theorem trunc12_eq_emod (v : Int) : trunc12 v = v % 4096 := by
  rw [trunc12, shl, shr]
  omega

/-- Settles O7: the law is the remainder modulo 4096, which the cases and the field's value are read off. -/
theorem truncationLaw : Obligations.TruncationLaw := by
  intro v
  have hfield : ((immField v).toNat : Int) = v % 4096 := by
    rw [immField_eq_ofInt, BitVec.toNat_ofInt]
    omega
  rw [hfield, trunc12_eq_emod]
  omega

end Sys2Proof.Machine
end

section
/-! The word decoder and the words of an instruction undo each other (spec/30_encoding.md R61 to R76). The idea: the rows the
decoder reads a word by are the patterns an instruction is encoded by, one law per format; each direction then needs only that
a format's fields and immediate read back. -/

namespace Sys2Proof

open Machine

/-! ### The decoder, by opcode (R76) -/

/-- The opcodes of format I, each with its rows by funct3. -/
def immediateGroups : Table (BitVec 7) (Table (BitVec 3) (Resolved → Resolved → Int → Instr)) :=
  [(0b0010011#7, immArithRows), (0b0000011#7, loadRows), (0b1100111#7, jalrRows)]

/-- The opcodes of format U. -/
def upperRows : Table (BitVec 7) (Resolved → Int → Instr) := [(0b0110111#7, .lui), (0b0010111#7, .auipc)]

theorem decodeWord_regReg {w : Word} (h : opcodeOf w = 0b0110011#7) : decodeWord w = readR w := by
  simp [decodeWord, h]

theorem decodeWord_immediate {w : Word} {rows : Table (BitVec 3) (Resolved → Resolved → Int → Instr)}
    (h : immediateGroups.get? (opcodeOf w) = some rows) : decodeWord w = readI rows w := by
  have hmem := Table.mem_of_get? h
  simp only [immediateGroups, List.mem_cons, Prod.mk.injEq, List.not_mem_nil, or_false] at hmem
  rcases hmem with ⟨hop, rfl⟩ | ⟨hop, rfl⟩ | ⟨hop, rfl⟩ <;> simp [decodeWord, hop]

theorem decodeWord_store {w : Word} (h : opcodeOf w = 0b0100011#7) : decodeWord w = readS w := by
  simp [decodeWord, h]

theorem decodeWord_branch {w : Word} (h : opcodeOf w = 0b1100011#7) : decodeWord w = readB w := by
  simp [decodeWord, h]

theorem decodeWord_upper {w : Word} {k : Resolved → Int → Instr} (h : upperRows.get? (opcodeOf w) = some k) :
    decodeWord w = .instr (k (.reg (rdOf w)) (upperOf w)) := by
  have hmem := Table.mem_of_get? h
  simp only [upperRows, List.mem_cons, Prod.mk.injEq, List.not_mem_nil, or_false] at hmem
  rcases hmem with ⟨hop, rfl⟩ | ⟨hop, rfl⟩ <;> simp [decodeWord, hop]

theorem decodeWord_jump {w : Word} (h : opcodeOf w = 0b1101111#7) :
    decodeWord w = .instr (.jal (.reg (rdOf w)) (offJOf w)) := by
  simp [decodeWord, h]

/-- Everything the decoder can answer an instruction by. -/
theorem decodeWord_cases {w : Word} {i : Instr} (h : decodeWord w = .instr i) :
    (opcodeOf w = 0b0110011#7 ∧ readR w = .instr i)
    ∨ (∃ rows, immediateGroups.get? (opcodeOf w) = some rows ∧ readI rows w = .instr i)
    ∨ (opcodeOf w = 0b0100011#7 ∧ readS w = .instr i) ∨ (opcodeOf w = 0b1100011#7 ∧ readB w = .instr i)
    ∨ (∃ k, upperRows.get? (opcodeOf w) = some k ∧ i = k (.reg (rdOf w)) (upperOf w))
    ∨ (opcodeOf w = 0b1101111#7 ∧ i = .jal (.reg (rdOf w)) (offJOf w)) := by
  unfold decodeWord at h
  split_ifs at h with h1 h2 h3 h4 h5 h6 h7 h8 h9
  · exact .inl ⟨h1, h⟩
  · exact .inr (.inl ⟨immArithRows, by rw [h2]; rfl, h⟩)
  · exact .inr (.inl ⟨loadRows, by rw [h3]; rfl, h⟩)
  · exact .inr (.inl ⟨jalrRows, by rw [h4]; rfl, h⟩)
  · exact .inr (.inr (.inl ⟨h5, h⟩))
  · exact .inr (.inr (.inr (.inl ⟨h6, h⟩)))
  · exact .inr (.inr (.inr (.inr (.inl ⟨.lui, by rw [h7]; rfl, (WordReading.instr.inj h).symm⟩))))
  · exact .inr (.inr (.inr (.inr (.inl ⟨.auipc, by rw [h8]; rfl, (WordReading.instr.inj h).symm⟩))))
  · exact .inr (.inr (.inr (.inr (.inr ⟨h9, (WordReading.instr.inj h).symm⟩))))

/-! ### A word decodes to its row's instruction, the operands as the word holds them -/

theorem decodeWord_wordR {f7 : BitVec 7} {f3 : BitVec 3} {k : Resolved → Resolved → Resolved → Instr}
    (hk : regRegRows.get? (f7, f3) = some k) (d a b : Resolved) :
    decodeWord (wordR f7 f3 d a b) = .instr (k d.reread a.reread b.reread) := by
  rw [wordR, decodeWord_regReg (opcodeOf_packR ..)]
  simp [readR, hk, Resolved.reread]

theorem decodeWord_wordI {op : BitVec 7} {f3 : BitVec 3} {rows : Table (BitVec 3) (Resolved → Resolved → Int → Instr)}
    {k : Resolved → Resolved → Int → Instr} (hop : immediateGroups.get? op = some rows) (hk : rows.get? f3 = some k)
    {v : Int} (hv : imm12Ok v = true) (d a : Resolved) :
    decodeWord (wordI op f3 d a v) = .instr (k d.reread a.reread v) := by
  rw [wordI, decodeWord_immediate (rows := rows) (by simpa using hop)]
  simp [readI, hk, immIOf_packI hv, Resolved.reread]

theorem decodeWord_wordS {f3 : BitVec 3} {k : Resolved → Resolved → Int → Instr} (hk : storeRows.get? f3 = some k)
    {v : Int} (hv : imm12Ok v = true) (b a : Resolved) :
    decodeWord (wordS f3 b a v) = .instr (k b.reread a.reread v) := by
  rw [wordS, decodeWord_store (by simp)]
  simp [readS, hk, immSOf_packS hv, Resolved.reread]

theorem decodeWord_wordB {f3 : BitVec 3} {k : Resolved → Resolved → Int → Instr} (hk : branchRows.get? f3 = some k)
    {v : Int} (hv : branchOk v = true) (a b : Resolved) :
    decodeWord (wordB f3 a b v) = .instr (k a.reread b.reread v) := by
  rw [wordB, decodeWord_branch (by simp)]
  simp [readB, hk, offBOf_packB hv, Resolved.reread]

theorem decodeWord_wordU {op : BitVec 7} {k : Resolved → Int → Instr} (hop : upperRows.get? op = some k) (d : Resolved)
    (u : Int) : decodeWord (wordU op d u) = .instr (k d.reread (upperReread u)) := by
  rw [wordU, decodeWord_upper (k := k) (by simpa using hop)]
  simp [upperOf_packU, upperReread, Resolved.reread]

theorem decodeWord_wordJ {al : JAlign} {v : Int} (hv : jumpOk al v = true) (d : Resolved) :
    decodeWord (wordJ d v) = .instr (.jal d.reread v) := by
  rw [wordJ, decodeWord_jump (by simp)]
  simp [offJOf_packJ hv, Resolved.reread]

/-- The two words of a wide `li` are those of the compensated split's two steps (R221). -/
theorem wordsLiWide_eq (d : Resolved) (v : Int) :
    wordsLiWide d (BitVec.ofInt 32 v)
      = [wordU 0b0110111#7 d (liHigh (v % 2 ^ 32)), wordI 0b0010011#7 0b000#3 d d (liLow (v % 2 ^ 32))] := by
  rw [wordsLiWide, wordU, wordI, ofInt_liHigh, ofInt_liLow]

theorem liLow_emod (v : Int) : liLow (v % 2 ^ 32) = sext 12 v := by
  have hlow : slice (v % 2 ^ 32) 11 0 % 2 ^ 12 = v % 2 ^ 12 := by
    rw [slice, shr]
    omega
  rw [liLow, sext, sext, hlow]

/-- The words of `li` decode to one `addi`, or to a `lui` and an `addi` (R221). -/
theorem decodeWord_li (d : Resolved) (v : Int) :
    (encode (.li d v)).map decodeWord = (Instr.li d v).reread.map WordReading.instr := by
  have haddi {a : Resolved} {u : Int} (hu : imm12Ok u = true) :
      decodeWord (wordI 0b0010011#7 0b000#3 d a u) = .instr (.addi d.reread a.reread u) :=
    decodeWord_wordI rfl rfl hu d a
  have hlui (u : Int) : decodeWord (wordU 0b0110111#7 d u) = .instr (.lui d.reread (upperReread u)) :=
    decodeWord_wordU rfl d u
  have hhigh : upperReread (liHigh (v % 2 ^ 32)) = shr (v % 4294967296 + 2048) 12 % 1048576 := Int.emod_emod ..
  have hlow : imm12Ok (sext 12 v) = true := liLow_emod v ▸ imm12Ok_liLow _
  by_cases hv : imm12Ok v = true
  · simp [encode, Instr.reread, hv, haddi, Resolved.reread, Resolved.bits]
  · simp only [encode, Instr.reread, if_neg hv, wordsLiWide_eq, liLow_emod, List.map_cons, List.map_nil, hlui, hhigh,
      haddi hlow]

/-- Settles O3: one row of its format per real instruction, and the rows of its steps per pseudo-instruction. -/
theorem encodedWordsDecode : Obligations.EncodedWordsDecode := by
  intro i hok
  cases i with
  | add | sub | sll | slt | sltu | xor | srl | sra | or | and | neg =>
    exact congrArg (· :: []) (decodeWord_wordR rfl ..)
  | addi | slti | sltiu | xori | ori | andi | lb | lh | lw | lbu | lhu | jalr =>
    exact congrArg (· :: []) (decodeWord_wordI rfl rfl (Bool.and_elim_right hok) ..)
  | sb | sh | sw => exact congrArg (· :: []) (decodeWord_wordS rfl (Bool.and_elim_right hok) ..)
  | beq | bne | blt | bge | bltu | bgeu | bgt | ble =>
    exact congrArg (· :: []) (decodeWord_wordB rfl (Bool.and_elim_right hok) ..)
  | lui | auipc | la => exact congrArg (· :: []) (decodeWord_wordU rfl ..)
  | jal | jlink => exact congrArg (· :: []) (decodeWord_wordJ (Bool.and_elim_right hok) _)
  | j v => exact congrArg (· :: []) (decodeWord_wordJ hok (.reg 0))
  | mv d a => exact congrArg (· :: []) (decodeWord_wordI rfl rfl rfl d a)
  | not d a => exact congrArg (· :: []) (decodeWord_wordI rfl rfl rfl d a)
  | nop | ret => decide
  | li d v => exact decodeWord_li d v

/-! ### A row's instruction has the word it was read from -/

/-- The word of a row of format R, and what its operands must be. -/
theorem encode_regRegRows : ∀ row ∈ regRegRows, ∀ d a b, encode (row.2 d a b) = [wordR row.1.1 row.1.2 d a b]
    ∧ (row.2 d a b).encodable defaultParams = (d.dstOk && a.srcOk && b.srcOk) := by
  simp [regRegRows, encode, Instr.encodable]

/-- The word of a row of format I, and what its operands must be. -/
theorem encode_immediateGroups : ∀ group ∈ immediateGroups, ∀ row ∈ group.2, ∀ d a v,
    encode (row.2 d a v) = [wordI group.1 row.1 d a v]
    ∧ (row.2 d a v).encodable defaultParams = (d.dstOk && a.srcOk && imm12Ok v) := by
  simp only [immediateGroups, immArithRows, loadRows, jalrRows, List.forall_mem_cons]
  simp [encode, Instr.encodable]

/-- The word of a row of format S, and what its operands must be. -/
theorem encode_storeRows : ∀ row ∈ storeRows, ∀ b a v, encode (row.2 b a v) = [wordS row.1 b a v]
    ∧ (row.2 b a v).encodable defaultParams = (b.srcOk && a.srcOk && imm12Ok v) := by
  simp [storeRows, encode, Instr.encodable]

/-- The word of a row of format B, and what its operands must be. -/
theorem encode_branchRows : ∀ row ∈ branchRows, ∀ a b v, encode (row.2 a b v) = [wordB row.1 a b v]
    ∧ (row.2 a b v).encodable defaultParams = (a.srcOk && b.srcOk && branchOk v) := by
  simp [branchRows, encode, Instr.encodable]

/-- The word of a row of format U, and what its operands must be. -/
theorem encode_upperRows : ∀ row ∈ upperRows, ∀ d u, encode (row.2 d u) = [wordU row.1 d u]
    ∧ (row.2 d u).encodable defaultParams = (d.dstOk && upperOk u) := by
  simp [upperRows, encode, Instr.encodable]

/-- An instruction re-encodes to a word: it has that one word, and its encoding admits its operands. -/
def ReencodesTo (i : Instr) (w : Word) : Prop := encode i = [w] ∧ i.encodable defaultParams = true

theorem reencodes_of_readR {w : Word} {i : Instr} (hop : opcodeOf w = 0b0110011#7) (h : readR w = .instr i) :
    ReencodesTo i w := by
  unfold readR at h
  split at h
  case h_2 => cases h
  case h_1 k hk =>
    cases h
    obtain ⟨henc, hok⟩ := encode_regRegRows _ (Table.mem_of_get? hk) (.reg (rdOf w)) (.reg (rs1Of w)) (.reg (rs2Of w))
    refine ⟨henc.trans ?_, hok.trans rfl⟩
    rw [wordR, ← hop]
    exact congrArg (· :: []) (packR_of_fields w)

theorem reencodes_of_readI {w : Word} {i : Instr} {rows : Table (BitVec 3) (Resolved → Resolved → Int → Instr)}
    (hop : immediateGroups.get? (opcodeOf w) = some rows) (h : readI rows w = .instr i) : ReencodesTo i w := by
  unfold readI at h
  split at h
  case h_2 => cases h
  case h_1 k hk =>
    cases h
    obtain ⟨henc, hok⟩ := encode_immediateGroups _ (Table.mem_of_get? hop) _ (Table.mem_of_get? hk) (.reg (rdOf w))
      (.reg (rs1Of w)) (immIOf w)
    refine ⟨henc.trans ?_, hok.trans (imm12Ok_toInt _)⟩
    rw [wordI, immIOf_eq, BitVec.ofInt_toInt]
    exact congrArg (· :: []) (packI_of_fields w)

theorem reencodes_of_readS {w : Word} {i : Instr} (hop : opcodeOf w = 0b0100011#7) (h : readS w = .instr i) :
    ReencodesTo i w := by
  unfold readS at h
  split at h
  case h_2 => cases h
  case h_1 k hk =>
    cases h
    obtain ⟨henc, hok⟩ := encode_storeRows _ (Table.mem_of_get? hk) (.reg (rs2Of w)) (.reg (rs1Of w)) (immSOf w)
    refine ⟨henc.trans ?_, hok.trans (imm12Ok_toInt _)⟩
    rw [wordS, immSOf_eq, BitVec.ofInt_toInt, ← hop]
    exact congrArg (· :: []) (packS_of_fields w)

theorem reencodes_of_readB {w : Word} {i : Instr} (hop : opcodeOf w = 0b1100011#7) (h : readB w = .instr i) :
    ReencodesTo i w := by
  unfold readB at h
  split at h
  case h_2 => cases h
  case h_1 k hk =>
    cases h
    obtain ⟨henc, hok⟩ := encode_branchRows _ (Table.mem_of_get? hk) (.reg (rs1Of w)) (.reg (rs2Of w)) (offBOf w)
    refine ⟨henc.trans ?_, hok.trans (branchOk_offBOf w)⟩
    rw [wordB, offBOf_eq, BitVec.ofInt_toInt, ← hop]
    exact congrArg (· :: []) (packB_of_fields w)

theorem reencodes_upper {w : Word} {k : Resolved → Int → Instr} (hop : upperRows.get? (opcodeOf w) = some k) :
    ReencodesTo (k (.reg (rdOf w)) (upperOf w)) w := by
  obtain ⟨henc, hok⟩ := encode_upperRows _ (Table.mem_of_get? hop) (.reg (rdOf w)) (upperOf w)
  refine ⟨henc.trans ?_, hok.trans (upperOk_upperOf w)⟩
  rw [wordU, upperOf_eq, BitVec.ofInt_natCast, BitVec.ofNat_toNat, BitVec.setWidth_eq]
  exact congrArg (· :: []) (packU_of_fields w)

theorem reencodes_jump {w : Word} (hop : opcodeOf w = 0b1101111#7) :
    ReencodesTo (.jal (.reg (rdOf w)) (offJOf w)) w := by
  refine ⟨?_, jumpOk_offJOf w⟩
  rw [encode, wordJ, offJOf_eq, BitVec.ofInt_toInt, ← hop]
  exact congrArg (· :: []) (packJ_of_fields w)

/-- Settles O4: by the opcode, the row a word is read by is the row its instruction is encoded by. -/
theorem decodedWordReencodes : Obligations.DecodedWordReencodes := by
  intro w i h
  rcases decodeWord_cases h with ⟨hop, hi⟩ | ⟨rows, hop, hi⟩ | ⟨hop, hi⟩ | ⟨hop, hi⟩ | ⟨k, hop, rfl⟩ | ⟨hop, rfl⟩
  · exact reencodes_of_readR hop hi
  · exact reencodes_of_readI hop hi
  · exact reencodes_of_readS hop hi
  · exact reencodes_of_readB hop hi
  · exact reencodes_upper hop
  · exact reencodes_jump hop

end Sys2Proof
end

section
/-! The invariant (spec/30_encoding.md R77; spec/48_dispatcher.md R255, R259; spec/60_exceptions.md R275): a step of a
well-formed engine gives a sound response. The idea: every step of a request is routed to the encoder of its own category, so
no encoder refuses it, and the word it is encoded to has the fields of its row. Each operation of the way from a request to
its words is given what its results satisfy, and these are sequenced as the operations are. -/

namespace Sys2Proof

open Machine

/-! ### What a result satisfies -/

/-- An answer satisfies `P` and a failure satisfies `Q`; nothing is said of a malformed request. -/
def Result.Satisfies {α : Type} (r : Result α) (P : α → Prop) (Q : Failure → Prop) : Prop :=
  match r with
  | .ok a => P a
  | .err f => Q f
  | .malformed => True

section
variable {α β : Type} {P : α → Prop} {P' : β → Prop} {Q : Failure → Prop}

@[simp] theorem Result.satisfies_ok {a : α} : (Result.ok a).Satisfies P Q ↔ P a := Iff.rfl
@[simp] theorem Result.satisfies_err {f : Failure} : (Result.err f : Result α).Satisfies P Q ↔ Q f := Iff.rfl
@[simp] theorem Result.satisfies_malformed : (Result.malformed : Result α).Satisfies P Q := trivial

theorem Result.Satisfies.imp {P₁ P₂ : α → Prop} {r : Result α} (hr : r.Satisfies P₁ Q) (h : ∀ a, P₁ a → P₂ a) :
    r.Satisfies P₂ Q := by
  cases r with
  | ok a => exact h a hr
  | err f => exact hr
  | malformed => trivial

/-- A sequence satisfies what its second part satisfies after every answer of its first part. -/
theorem Result.Satisfies.bind {r : Result α} {k : α → Result β} (hr : r.Satisfies P Q)
    (hk : ∀ a, P a → (k a).Satisfies P' Q) : (r.bind k).Satisfies P' Q := by
  cases r with
  | ok a => exact hk a hr
  | err f => exact hr
  | malformed => trivial

end

namespace Machine

/-! ### Reading a request -/

/-- A failure that can come out of `dispatchLine` (R275). -/
def Reportable (f : Failure) : Prop := f.kind ≠ .structuralEncodingError ∧ f.kind ≠ .wrongInstructionType

@[simp] theorem reportable_unknownMnemonic (i : Info) : Reportable ⟨.unknownMnemonic, i⟩ := ⟨nofun, nofun⟩
@[simp] theorem reportable_unknownRegister (i : Info) : Reportable ⟨.unknownRegister, i⟩ := ⟨nofun, nofun⟩
@[simp] theorem reportable_operandRangeError (i : Info) : Reportable ⟨.operandRangeError, i⟩ := ⟨nofun, nofun⟩

theorem classify_satisfies (e : Engine) (mn : Token) :
    (classify e mn).Satisfies (fun c => e.cat.get? mn = some c) Reportable := by
  cases h : e.cat.get? mn with
  | none => simp [classify_of_none h]
  | some c => simp [classify_of_some h]

theorem readOperand_satisfies (e : Engine) (k : OperandKind) (t : Token) :
    (readOperand e k t).Satisfies (fun _ => True) Reportable := by
  cases k with
  | reg => rcases resolve_cases e t with ⟨r, hr⟩ | hr | hr <;> simp [readOperand, hr]
  | int => cases hi : integer? t <;> simp [readOperand, hi]

theorem readOperands_satisfies (e : Engine) : ∀ (ks : List OperandKind) (ts : List Token),
    (readOperands e ks ts).Satisfies (fun _ => True) Reportable
  | k :: ks, t :: ts => (readOperand_satisfies e k t).bind fun _ _ =>
      (readOperands_satisfies e ks ts).bind fun _ _ => trivial
  | [], _ => trivial
  | _ :: _, [] => trivial

theorem checkedOperands_satisfies (e : Engine) (shape : List OperandKind) (toks : List Token) :
    (checkedOperands e shape toks).Satisfies (fun _ => True) Reportable := by
  unfold checkedOperands
  split
  · exact readOperands_satisfies e shape toks
  · trivial

/-! ### The steps of a request -/

/-- A step goes to the encoder of its mnemonic's category (R232, R255). -/
def Routed (e : Engine) (st : RealStep) : Prop := e.cat.get? st.mn = some (argsFormat st.args)

/-- At most two steps, each routed (R233). -/
def RoutedSteps (e : Engine) (sts : List RealStep) : Prop := sts.length ≤ 2 ∧ ∀ st ∈ sts, Routed e st

/-- The steps of what a request asks for: none, those of an instruction, or the one of a configured mnemonic. -/
def decodedSteps (p : Params) : Decoded → Result (List RealStep)
  | .blank => .ok []
  | .instr i => instrSteps p i
  | .configured st => .ok [st]

theorem decodedWords_eq_bind (e : Engine) (d : Decoded) :
    decodedWords e d = (decodedSteps e.params d).bind (encodeSteps e) := by
  cases d <;> rfl

theorem routedSteps_nil (e : Engine) : RoutedSteps e [] := ⟨by simp, by simp⟩

theorem routedSteps_single {e : Engine} {st : RealStep} (h : Routed e st) : RoutedSteps e [st] :=
  ⟨by simp, by simpa using h⟩

theorem routedSteps_pair {e : Engine} {st st' : RealStep} (h : Routed e st) (h' : Routed e st') :
    RoutedSteps e [st, st'] :=
  ⟨by simp, by simp [h, h']⟩

/-- Operands of a format are the arguments of that format's encoder (R79). -/
theorem argsFormat_of_argsOf {c : Category} {ops : List Operand} {a : Args} (h : argsOf c ops = some a) :
    argsFormat a = c := by
  unfold argsOf at h
  split at h <;> cases h <;> rfl

/-- The step of a row of each request table is the row's mnemonic with the row's operands. -/
theorem instrSteps_rows (p : Params) :
    (∀ row ∈ regRegInstrs, ∀ a b c, instrSteps p (row.2 a b c) = .ok [⟨row.1, .regReg a b c⟩])
    ∧ (∀ row ∈ immediateInstrs, ∀ a b v, instrSteps p (row.2 a b v) = .ok [⟨row.1, .immediate a b v⟩])
    ∧ (∀ row ∈ storeInstrs, ∀ a b v, instrSteps p (row.2 a b v) = .ok [⟨row.1, .store a b v⟩])
    ∧ (∀ row ∈ branchInstrs, ∀ a b v, instrSteps p (row.2 a b v) = .ok [⟨row.1, .branch a b v⟩])
    ∧ (∀ row ∈ upperInstrs, ∀ a v, instrSteps p (row.2 a v) = .ok [⟨row.1, .upper a v⟩])
    ∧ ∀ row ∈ jumpInstrs, ∀ a v, instrSteps p (row.2 a v) = .ok [⟨row.1, .jump a v⟩] := by
  simp [regRegInstrs, immediateInstrs, storeInstrs, branchInstrs, upperInstrs, jumpInstrs, instrSteps]

/-- A real instruction is the one step it is read from. -/
theorem instrSteps_of_instrOfStep {p : Params} {st : RealStep} {i : Instr} (h : instrOfStep st = some i) :
    instrSteps p i = .ok [st] := by
  obtain ⟨hR, hI, hS, hB, hU, hJ⟩ := instrSteps_rows p
  obtain ⟨mn, args⟩ := st
  cases args <;> obtain ⟨k, hk, rfl⟩ := Option.map_eq_some_iff.mp h <;> replace hk := Table.mem_of_get? hk
  case regReg => exact hR _ hk ..
  case immediate => exact hI _ hk ..
  case store => exact hS _ hk ..
  case branch => exact hB _ hk ..
  case upper => exact hU _ hk ..
  case jump => exact hJ _ hk ..

theorem decodedReal_satisfies {e : Engine} {mn : Token} {c : Category} (hc : e.cat.get? mn = some c)
    (ops : List Operand) :
    (decodedReal mn c ops).Satisfies (fun d => (decodedSteps e.params d).Satisfies (RoutedSteps e) Reportable)
      Reportable := by
  unfold decodedReal
  cases hargs : argsOf c ops with
  | none => trivial
  | some a =>
    have hsteps : RoutedSteps e [⟨mn, a⟩] := routedSteps_single (by rw [Routed, hc, argsFormat_of_argsOf hargs])
    cases hi : instrOfStep ⟨mn, a⟩ with
    | none => simpa [hi, decodedSteps] using hsteps
    | some i => simpa [hi, decodedSteps, instrSteps_of_instrOfStep hi] using hsteps

/-- The nine mnemonics the expander emits are routed over a well-formed engine (R34 d). -/
theorem routed_of_emitted {e : Engine} (hwf : engineWf e = true) {mn : Token} {args : Args}
    (h : (mn, argsFormat args) ∈ emitted) : Routed e ⟨mn, args⟩ := by
  obtain ⟨-, -, -, -, hemitted⟩ := engineWf_iff.mp hwf
  exact hemitted _ h

theorem expandLi_satisfies {e : Engine} (hwf : engineWf e = true) (d : Resolved) (v : Int) :
    (expandLi e.params d v).Satisfies (RoutedSteps e) Reportable := by
  have haddi (a : Resolved) (u : Int) : Routed e ⟨"addi", .immediate d a u⟩ :=
    routed_of_emitted hwf (by simp [emitted, argsFormat])
  have hlui (u : Int) : Routed e ⟨"lui", .upper d u⟩ := routed_of_emitted hwf (by simp [emitted, argsFormat])
  rcases expandLi_cases e.params d v with ⟨-, he⟩ | ⟨-, -, he⟩ | ⟨-, -, he⟩ <;> rw [he]
  · exact routedSteps_single (haddi ..)
  · cases e.params.liSplit <;> exact routedSteps_pair (hlui _) (haddi ..)
  · exact reportable_operandRangeError _

/-- A pseudo-instruction's steps are of emitted mnemonics: those of `li`, or one step (R221 to R231). -/
theorem decodedPseudo_satisfies {e : Engine} (hwf : engineWf e = true) (k : PseudoOp) (ops : List Operand) :
    (decodedPseudo k ops).Satisfies (fun d => (decodedSteps e.params d).Satisfies (RoutedSteps e) Reportable)
      Reportable := by
  unfold decodedPseudo
  cases hi : instrOfPseudo k ops with
  | none => trivial
  | some i =>
    unfold instrOfPseudo at hi
    split at hi <;> cases hi
    case h_1 d v => exact expandLi_satisfies hwf d v
    all_goals exact routedSteps_single (routed_of_emitted hwf (by simp [emitted, argsFormat]))

theorem decodeRequest_satisfies {e : Engine} (hwf : engineWf e = true) : ∀ q : Request,
    (decodeRequest e q).Satisfies (fun d => (decodedSteps e.params d).Satisfies (RoutedSteps e) Reportable) Reportable
  | [] => routedSteps_nil e
  | mn :: toks => by
    refine (classify_satisfies e mn).bind fun c hc => ?_
    cases c
    case P =>
      cases (pseudoSpellings e.params).get? mn with
      | none => trivial
      | some k => exact (checkedOperands_satisfies ..).bind fun ops _ => decodedPseudo_satisfies hwf k ops
    all_goals exact (checkedOperands_satisfies ..).bind fun ops _ => decodedReal_satisfies hc ops

/-! ### The words of routed steps -/

theorem dstField_satisfies (r : Resolved) : (dstField r).Satisfies (fun _ => True) Reportable := by
  cases r <;> simp

theorem srcField_satisfies (r : Resolved) : (srcField r).Satisfies (fun _ => True) Reportable := by
  rcases srcField_cases r with ⟨a, ha⟩ | ⟨n, -, -, hn⟩ <;> simp [*]

theorem requireRange_satisfies (b : Bool) (v : Int) : (requireRange b v).Satisfies (fun _ => True) Reportable := by
  cases b <;> simp

theorem funct3For_of_some {e : Engine} {st : RealStep} {fs : FieldSpec} {f : BitVec 3} (h : fs.funct3 = some f) :
    funct3For e st fs = f := by simp [funct3For, h]

theorem funct7For_of_some {e : Engine} {st : RealStep} {fs : FieldSpec} {f : BitVec 7} (h : fs.funct7 = some f) :
    funct7For e st fs = f := by simp [funct7For, h]

theorem argsFormat_ne_pseudo (a : Args) : argsFormat a ≠ .P := by
  cases a <;> simp [argsFormat]

/-- A routed step is encoded to a word of its row, or an operand is out of range (R255, R273). -/
theorem encodeStep_satisfies {e : Engine} (hwf : engineWf e = true) {st : RealStep} (hst : Routed e st) :
    (encodeStep e st).Satisfies (FromTable e) Reportable := by
  obtain ⟨-, -, -, hfits, -⟩ := engineWf_iff.mp hwf
  obtain ⟨fs, hfs, hfit⟩ := rowFits_real (argsFormat_ne_pseudo _) (hfits _ (Table.mem_of_get? hst))
  have hrow {w : Word} (hop : opcodeOf w = fs.opcode) (h3 : ∀ f, fs.funct3 = some f → funct3Of w = f)
      (h7 : ∀ f, fs.funct7 = some f → funct7Of w = f) : FromTable e w :=
    ⟨st.mn, _, fs, ⟨hst, hfs⟩, argsFormat_ne_pseudo _, hop, h3, h7⟩
  obtain ⟨mn, args⟩ := st
  have hcat := requireCategory_of_eq hst
  have hlookup := lookup_of_some hfs
  cases args <;> simp only [argsFormat, fieldsFit, Bool.and_eq_true, Option.isNone_iff_eq_none] at hcat hlookup hfit <;>
    simp only [encodeStep, encR, encI, encS, encB, encU, encJ, hcat, hlookup, Result.bind_ok]
  case regReg d a b =>
    exact (dstField_satisfies d).bind fun _ _ => (srcField_satisfies a).bind fun _ _ => (srcField_satisfies b).bind
      fun _ _ => hrow (by simp) (fun f h => by simp [funct3For_of_some h]) (fun f h => by simp [funct7For_of_some h])
  case immediate d a v =>
    exact (dstField_satisfies d).bind fun _ _ => (srcField_satisfies a).bind fun _ _ => (requireRange_satisfies ..).bind
      fun _ _ => hrow (by simp) (fun f h => by simp [funct3For_of_some h]) (by simp [hfit.2])
  case store b a v =>
    exact (srcField_satisfies b).bind fun _ _ => (srcField_satisfies a).bind fun _ _ => (requireRange_satisfies ..).bind
      fun _ _ => hrow (by simp) (fun f h => by simp [funct3For_of_some h]) (by simp [hfit.2])
  case branch a b v =>
    exact (srcField_satisfies a).bind fun _ _ => (srcField_satisfies b).bind fun _ _ => (requireRange_satisfies ..).bind
      fun _ _ => hrow (by simp) (fun f h => by simp [funct3For_of_some h]) (by simp [hfit.2])
  case upper d u =>
    exact (dstField_satisfies d).bind fun _ _ => (requireRange_satisfies ..).bind
      fun _ _ => hrow (by simp) (by simp [hfit.1]) (by simp [hfit.2])
  case jump d v =>
    exact (dstField_satisfies d).bind fun _ _ => (requireRange_satisfies ..).bind
      fun _ _ => hrow (by simp) (by simp [hfit.1]) (by simp [hfit.2])

theorem encodeSteps_satisfies {e : Engine} (hwf : engineWf e = true) {sts : List RealStep}
    (hsts : ∀ st ∈ sts, Routed e st) : (encodeSteps e sts).Satisfies
      (fun ws => ws.length = sts.length ∧ ∀ w ∈ ws, FromTable e w) Reportable := by
  induction sts with
  | nil => exact ⟨rfl, List.forall_mem_nil _⟩
  | cons st rest ih =>
    obtain ⟨hst, hrest⟩ := List.forall_mem_cons.mp hsts
    exact (encodeStep_satisfies hwf hst).bind fun w hw => (ih hrest).bind fun ws ⟨hlen, hws⟩ =>
      ⟨by simp [hlen], List.forall_mem_cons.mpr ⟨hw, hws⟩⟩

/-- A well-formed engine answers a request with at most two words of its tables, or with a reportable failure. -/
theorem requestWords_satisfies {e : Engine} (hwf : engineWf e = true) (q : Request) :
    (requestWords e q).Satisfies (fun ws => (Response.words ws).Sound e) Reportable := by
  refine (decodeRequest_satisfies hwf q).bind fun d hd => ?_
  rw [decodedWords_eq_bind]
  refine hd.bind fun sts ⟨hlen, hsts⟩ => ?_
  exact (encodeSteps_satisfies hwf hsts).imp fun ws ⟨hcount, hws⟩ => ⟨hcount.trans_le hlen, hws⟩

/-! ### The obligation -/

/-- One sound response more keeps the invariant; the requests are no part of it. -/
theorem inv_respond {s : State} {r : Response} (hinv : s.Inv) (hr : r.Sound s.engine) (rest : List Request) :
    ((s.withRequests rest).respond r).Inv := by
  obtain ⟨hwf, hsound⟩ := hinv
  refine ⟨hwf, fun r' hr' => ?_⟩
  rcases List.mem_append.mp hr' with hold | hnew
  · exact hsound r' hold
  · exact List.mem_singleton.mp hnew ▸ hr

/-- Settles O48: a step changes nothing, is refused, or gives one response, which is sound because a ready engine is well
formed. -/
theorem stepKeepsTheInvariant : Obligations.StepKeepsTheInvariant := by
  intro s t hinv hstep
  rcases step_cases s with ⟨-, hnext⟩ | ⟨_, _, -, -, hrefused⟩ | ⟨q, rest, hq, hready, -⟩
  · rw [hnext] at hstep
    cases hstep
    exact hinv
  · rw [hrefused] at hstep
    cases hstep
  · have hwords := requestWords_satisfies (hinv.1 hready) q
    rw [step_eq_deliver hready hq] at hstep
    cases hres : requestWords s.engine q <;> rw [hres] at hstep hwords <;> cases hstep
    · exact inv_respond (r := .words _) hinv hwords rest
    · exact inv_respond (r := .error _) hinv hwords rest

end Machine

end Sys2Proof
end

section
/-! Table lookups, the resolver and the two slots (spec/40_table_and_resolver.md R100 to R107; spec/48_dispatcher.md R253).
The idea: each token reader (decimal digits, brackets, an `x` number) accepts exactly the tokens of its written form, and
the resolver asks them in order; an ill-formed bracketed literal fits no operand position, so no shape holds it. -/

namespace Sys2Proof.Machine

/-! ### The table lookup (R100) -/

theorem lookup_of_none {e : Engine} {mn : Token} (h : e.optab.get? mn = none) :
    lookup e mn = .err ⟨.unknownMnemonic, .token mn⟩ := by
  simp [lookup, h]

/-! ### What the token readers accept -/

theorem digitsValue?_eq_some {cs : List Char} {n : Nat} :
    digitsValue? cs = some n ↔ cs ≠ [] ∧ cs.all Char.isDigit = true ∧ Nat.ofDigitChars 10 cs 0 = n := by
  simp only [digitsValue?, Option.ite_none_right_eq_some, Option.some.injEq, and_assoc]

theorem digitsValue?_eq_none {cs : List Char} : digitsValue? cs = none ↔ cs = [] ∨ cs.all Char.isDigit = false := by
  rw [digitsValue?, ite_eq_right_iff]
  simp only [reduceCtorEq, imp_false, not_and_or, not_not, Bool.not_eq_true]

/-- Only a token in brackets has a body, and it is what stands between them. -/
theorem eq_brackets_of_bracketBody? {t : Token} {ds : List Char} (h : bracketBody? t = some ds) :
    t = String.ofList ('[' :: ds ++ [']']) := by
  unfold bracketBody? at h
  split at h
  · cases h
  case h_2 c rest ht =>
    obtain ⟨⟨rfl, hlast⟩, hds⟩ := Option.ite_none_right_eq_some.mp h
    obtain rfl := Option.some.inj hds
    rw [List.cons_append, List.dropLast_append_getLast? _ hlast, ← ht, String.ofList_toList]

/-- Any token but one or more decimal digits in brackets is no bracketed literal (R102). -/
theorem bracketed?_eq_none {t : Token}
    (h : ¬ ∃ ds, t = String.ofList ('[' :: ds ++ [']']) ∧ ds ≠ [] ∧ ds.all Char.isDigit = true) :
    bracketed? t = none := by
  refine Option.eq_none_iff_forall_ne_some.mpr fun n hn => h ?_
  obtain ⟨ds, hbody, hvalue⟩ := Option.bind_eq_some_iff.mp hn
  obtain ⟨hne, hall, -⟩ := digitsValue?_eq_some.mp hvalue
  exact ⟨ds, eq_brackets_of_bracketBody? hbody, hne, hall⟩

/-- An `x` number is `x` and one or two decimal digits of value at most 31 (R104). -/
theorem xNumber?_eq_some {t : Token} {i : RegIdx} :
    xNumber? t = some i ↔
      ∃ ds n, t = String.ofList ('x' :: ds) ∧ ds.length ≤ 2 ∧ digitsValue? ds = some n ∧ n ≤ 31 ∧
        BitVec.ofNat 5 n = i := by
  constructor
  · intro h
    unfold xNumber? at h
    split at h
    · cases h
    case h_2 c ds ht =>
      obtain ⟨⟨rfl, hlen⟩, hread⟩ := Option.ite_none_right_eq_some.mp h
      cases hvalue : digitsValue? ds with
      | none => simp [hvalue] at hread
      | some n =>
        simp only [hvalue, Option.ite_none_right_eq_some, Option.some.injEq] at hread
        obtain ⟨hn, hi⟩ := hread
        exact ⟨ds, n, by rw [← ht, String.ofList_toList], hlen, hvalue, hn, hi⟩
  · rintro ⟨ds, n, rfl, hlen, hvalue, hn, rfl⟩
    simp [xNumber?, hlen, hvalue, hn]

theorem xNumber?_brackets (ds : List Char) : xNumber? (String.ofList ('[' :: ds ++ [']'])) = none := by
  simp [xNumber?]

theorem integer?_brackets (ds : List Char) : integer? (String.ofList ('[' :: ds ++ [']'])) = none := by
  simp [integer?, digitsValue?]

/-! ### The cases of the resolver (R105) -/

theorem resolve_of_bracketed {e : Engine} {t : Token} {n : Nat} (h : bracketed? t = some n)
    (hn : n ≤ e.params.dispMax) : resolve e t = .ok (.disp n) := by
  simp [resolve, h, hn]

theorem resolve_of_bracketed_large {e : Engine} {t : Token} {n : Nat} (h : bracketed? t = some n)
    (hn : e.params.dispMax < n) : resolve e t = .err ⟨.operandRangeError, .token t⟩ := by
  simp [resolve, h, Nat.not_le.mpr hn]

section
variable {e : Engine} {t : Token} (hb : bracketed? t = none)
include hb

theorem resolve_of_key {i : RegIdx} (hkey : e.regtab.get? t = some i) : resolve e t = .ok (.reg i) := by
  simp [resolve, resolveName, hb, hkey]

theorem resolve_of_xNumber {i : RegIdx} (hkey : e.regtab.get? t = none) (hx : xNumber? t = some i) :
    resolve e t = .ok (.reg i) := by
  simp [resolve, resolveName, hb, hkey, hx]

theorem resolve_unknown (hkey : e.regtab.get? t = none) (hx : xNumber? t = none) :
    resolve e t = .err ⟨.unknownRegister, .token t⟩ := by
  simp [resolve, resolveName, hb, hkey, hx]

end

/-! ### The shape check and an ill-formed bracketed literal (R253) -/

/-- Brackets around anything but decimal digits fit neither kind of position. -/
theorem tokenFits_brackets {ds : List Char} (h : digitsValue? ds = none) (k : OperandKind) :
    tokenFits k (String.ofList ('[' :: ds ++ [']'])) = false := by
  cases k with
  | reg => simp only [tokenFits, bracketBody?_brackets, h, Option.isSome_none]
  | int => simp only [tokenFits, integer?_brackets, Option.isSome_none]

/-- Each token of a request that passes the shape check fits some position. -/
theorem tokenFits_of_shapeOk : ∀ {ks : List OperandKind} {ts : List Token}, shapeOk ks ts = true →
    ∀ t ∈ ts, ∃ k, tokenFits k t = true
  | k :: ks, t :: ts, h => by
    obtain ⟨hfits, hrest⟩ := Bool.and_eq_true_iff.mp h
    exact List.forall_mem_cons.mpr ⟨⟨k, hfits⟩, tokenFits_of_shapeOk hrest⟩
  | [], [], _ => List.forall_mem_nil _
  | [], _ :: _, h => nomatch h
  | _ :: _, [], h => nomatch h

/-- No shape holds a token that fits no position. -/
theorem shapeOk_eq_false_of_mem {t : Token} (hfits : ∀ k, tokenFits k t = false) {ts : List Token} (hmem : t ∈ ts)
    (ks : List OperandKind) : shapeOk ks ts = false := by
  refine Bool.eq_false_iff.mpr fun h => ?_
  obtain ⟨k, hk⟩ := tokenFits_of_shapeOk h t hmem
  exact Bool.false_ne_true ((hfits k).symm.trans hk)

theorem shapeOf_real {p : Params} {c : Category} (hreal : c ≠ .P) (mn : Token) :
    shapeOf p c mn = some (formatShape c) := by
  cases c <;> simp_all [shapeOf]

/-- A classified request whose tokens match no shape of its mnemonic is malformed. -/
theorem decodeRequest_malformed {e : Engine} {mn : Token} {c : Category} {toks : List Token}
    (hc : e.cat.get? mn = some c) (hshape : ∀ shape, shapeOf e.params c mn = some shape → shapeOk shape toks = false) :
    decodeRequest e (mn :: toks) = .malformed := by
  rcases eq_or_ne c .P with rfl | hreal
  · cases hk : (pseudoSpellings e.params).get? mn with
    | none => simp [decodeRequest, classify_of_some hc, hk]
    | some k => simp [decodeRequest_of_pseudo hc hk, checkedOperands, hshape (pseudoShape k) (by simp [shapeOf, hk])]
  · simp [decodeRequest_of_real hc hreal, checkedOperands, hshape _ (shapeOf_real hreal mn)]

/-- A ready engine refuses a request that decodes as malformed. -/
theorem step_refuses_malformed {s : State} {q : Request} {rest : List Request} (hready : s.phase = .ready)
    (hq : s.requests = q :: rest) (h : decodeRequest s.engine q = .malformed) :
    step s = .refused .malformedRequest := by
  rw [step_eq_deliver hready hq, requestWords, h, Result.bind_malformed, deliver_malformed]

/-! ### The obligations -/

/-- Settles O16: the value of the digits decides the resolver's answer, and an ill-formed literal fits no position. -/
theorem bracketedLiteralResolves : Obligations.BracketedLiteralResolves := by
  refine fun e ds => ⟨fun hne hall => ?_, fun hill => ?_⟩
  · have hvalue : bracketed? (String.ofList ('[' :: ds ++ [']'])) = some (Nat.ofDigitChars 10 ds 0) := by
      rw [bracketed?_brackets, digitsValue?_eq_some]
      exact ⟨hne, hall, rfl⟩
    exact ⟨resolve_of_bracketed hvalue, resolve_of_bracketed_large hvalue⟩
  · have hdigits : digitsValue? ds = none := digitsValue?_eq_none.mpr hill
    have hvalue : bracketed? (String.ofList ('[' :: ds ++ [']'])) = none := by rw [bracketed?_brackets, hdigits]
    refine ⟨fun hkey => resolve_unknown hvalue hkey (xNumber?_brackets ds),
      fun s mn toks rest c hready hq hc hmem => ?_⟩
    have hshape := shapeOk_eq_false_of_mem (tokenFits_brackets hdigits) hmem
    exact step_refuses_malformed hready hq (decodeRequest_malformed hc fun shape _ => hshape shape)

/-- Settles O17: the table is asked, then the `x` number, which is exactly the form R104 writes. -/
theorem registerNameResolves : Obligations.RegisterNameResolves := by
  intro e t hbrackets
  have hb := bracketed?_eq_none hbrackets
  refine ⟨fun i => resolve_of_key hb, fun hkey => ⟨fun ds n ht hne hlen hall hvalue hn => ?_, fun hform => ?_⟩⟩
  · exact resolve_of_xNumber hb hkey (xNumber?_eq_some.mpr
      ⟨ds, n, ht, hlen, digitsValue?_eq_some.mpr ⟨hne, hall, hvalue⟩, hn, rfl⟩)
  · refine resolve_unknown hb hkey (Option.eq_none_iff_forall_ne_some.mpr fun i hi => hform ?_)
    obtain ⟨ds, n, ht, hlen, hdigits, hn, -⟩ := xNumber?_eq_some.mp hi
    obtain ⟨hne, hall, rfl⟩ := digitsValue?_eq_some.mp hdigits
    exact ⟨ds, ht, hne, hlen, hall, hn⟩

/-- Settles O12: a lookup answers the table's row, and raises `UnknownMnemonic` where there is none. -/
theorem lookupAnswersTheTable : Obligations.LookupAnswersTheTable :=
  fun _ _ => ⟨fun _ hfs => lookup_of_some hfs, fun hnone => lookup_of_none hnone⟩

/-- Settles O18: the four cases of the two slots. -/
theorem slotsTakeTheirOperands : Obligations.SlotsTakeTheirOperands :=
  ⟨fun i => ⟨srcField_reg i, dstField_reg i⟩, fun _ => srcField_disp_small, fun _ => srcField_disp_large, dstField_disp⟩

end Sys2Proof.Machine
end

section
/-! The register-register instructions (spec/41_register_register.md R120 to R130) and the spec's example words
(spec/30_encoding.md R61 to R76). The idea: the ten instructions are the one encoder of R120 under ten mnemonics, so each
clause is proved once for any mnemonic and FieldSpec; an example word is the pattern of its instruction and reads back. -/

namespace Sys2Proof.Machine

/-! ### What a step delivers -/

theorem deliverStep_of_ok {s : State} {st : RealStep} {w : Word} (h : encodeStep s.engine st = .ok w) :
    deliverStep s st = .next (s.respond (.words [w])) := by
  rw [deliverStep, h, Result.bind_ok, deliver_ok]

theorem deliverStep_of_err {s : State} {st : RealStep} {f : Failure} (h : encodeStep s.engine st = .err f) :
    deliverStep s st = .next (s.respond (.error f)) := by
  rw [deliverStep, h, Result.bind_err, deliver_err]

/-! ### The two tests every encoder makes first -/

/-- Every format's encoder tests the category before anything else (R273). -/
theorem encodeStep_of_foreign {e : Engine} {mn : Token} {args : Args} (h : e.cat.get? mn ≠ some (argsFormat args)) :
    encodeStep e ⟨mn, args⟩ = .err ⟨.wrongInstructionType, .token mn⟩ := by
  have hcat := requireCategory_of_ne h
  cases args <;> simp only [argsFormat] at hcat <;>
    simp only [encodeStep, encR, encI, encS, encB, encU, encJ, hcat, Result.bind_err]

/-- Every format's encoder reads the FieldSpec before any operand (R100). -/
theorem encodeStep_of_noRow {e : Engine} {mn : Token} {args : Args} (hc : e.cat.get? mn = some (argsFormat args))
    (h : e.optab.get? mn = none) : encodeStep e ⟨mn, args⟩ = .err ⟨.unknownMnemonic, .token mn⟩ := by
  have hcat := requireCategory_of_eq hc
  cases args <;> simp only [argsFormat] at hcat <;>
    simp only [encodeStep, encR, encI, encS, encB, encU, encJ, hcat, lookup_of_none h, Result.bind_ok, Result.bind_err]

/-! ### The slots of format R -/

theorem srcField_of_srcSlot {r : Resolved} {a : RegIdx} (h : SrcSlot r a) : srcField r = .ok a := by
  rcases h with rfl | ⟨n, hn, rfl, rfl⟩
  · exact srcField_reg a
  · exact srcField_disp_small hn

/-- With its row held, a register-register step is its three slots in order, then the layout of R62 (R120). -/
theorem encodeStep_regReg {e : Engine} {mn : Token} {op f7 : BitVec 7} {f3 : BitVec 3}
    (hrow : HoldsRow e mn .R ⟨op, some f3, some f7⟩) (rd rs1 rs2 : Resolved) :
    encodeStep e ⟨mn, .regReg rd rs1 rs2⟩ =
      (dstField rd).bind fun d => (srcField rs1).bind fun a => (srcField rs2).bind fun b =>
        .ok (packR f7 b a f3 d op) := by
  obtain ⟨hcat, hopt⟩ := hrow
  simp only [encodeStep, encR, requireCategory_of_eq hcat, lookup_of_some hopt, Result.bind_ok, funct3For, funct7For,
    Option.getD_some]

/-! ### The obligations -/

/-- R120, once for every instruction that delivers the register-register step of its mnemonic. -/
theorem regRegEncodes {mn : Token} {f7 : BitVec 7} {f3 : BitVec 3} {ins : Resolved → Resolved → Resolved → Instr}
    (hexec : ∀ rd rs1 rs2 s, exec (ins rd rs1 rs2) s = deliverStep s ⟨mn, .regReg rd rs1 rs2⟩) :
    RegRegEncodes mn f7 f3 ins := by
  intro s rd rs1 rs2
  rw [hexec]
  refine ⟨fun hforeign => deliverStep_of_err (encodeStep_of_foreign hforeign),
    fun hc hnone => deliverStep_of_err (encodeStep_of_noRow hc hnone), fun hrow => ?_⟩
  have hstep := encodeStep_regReg hrow rd rs1 rs2
  refine ⟨?word, ?destination, ?firstSource, ?secondSource⟩
  case word =>
    rintro d a b rfl ha hb
    exact deliverStep_of_ok (by simp [hstep, srcField_of_srcSlot ha, srcField_of_srcSlot hb, packR])
  case destination =>
    rintro n rfl
    exact deliverStep_of_err (by simp [hstep])
  case firstSource =>
    rintro d n rfl rfl hn
    exact deliverStep_of_err (by simp [hstep, srcField_disp_large hn])
  case secondSource =>
    rintro d a n rfl ha rfl hn
    exact deliverStep_of_err (by simp [hstep, srcField_of_srcSlot ha, srcField_disp_large hn])

/-- Settles O20: each of the ten instructions delivers the step of its mnemonic, with the fields of its rule. -/
theorem registerRegisterInstructionsEncode : Obligations.RegisterRegisterInstructionsEncode := by
  refine ⟨?_, ?_, ?_, ?_, ?_, ?_, ?_, ?_, ?_, ?_⟩ <;> exact regRegEncodes fun _ _ _ _ => rfl

/-- The word of an admissible instruction decodes to that same instruction where re-reading leaves it unchanged. -/
theorem decodeWord_of_encode {i : Instr} {w : Word} (hok : i.encodable defaultParams = true) (hw : encode i = [w])
    (hreread : i.reread = [i]) : decodeWord w = .instr i := by
  simpa [hw, hreread] using encodedWordsDecode i hok

/-- Settles O1: each word is the opcode table's pattern of its instruction, which reads back (O3). -/
theorem knownWordsDecode : Obligations.KnownWordsDecode := by
  refine ⟨?_, ?_, ?_, ?_, ?_, ?_, ?_, ?_⟩ <;> exact decodeWord_of_encode rfl rfl rfl

end Sys2Proof.Machine
end

section
/-! The immediate-format instructions (spec/42_immediate.md R140 to R152). The idea: the twelve instructions are the one
encoder of R140 under twelve mnemonics, so each clause is proved once for any mnemonic, opcode and funct3; the truncated
immediate is the remainder modulo 4096 (R68). -/

namespace Sys2Proof.Machine

/-! ### The 12-bit immediate -/

theorem imm12Ok_eq_false_iff {v : Int} : imm12Ok v = false ↔ v < -2048 ∨ 2047 < v := by
  rw [← Bool.not_eq_true, imm12Ok_iff, not_and_or, not_le, not_le]

theorem immField_eq_ofInt_emod (v : Int) : immField v = BitVec.ofInt 12 (v % 4096) := by
  rw [immField, trunc12_eq_emod]

/-! ### The slots of format I -/

/-- With its row held, an immediate step is its two slots and its range test in order, then the layout of R63 (R140). -/
theorem encodeStep_immediate {e : Engine} {mn : Token} {op : BitVec 7} {f3 : BitVec 3}
    (hrow : HoldsRow e mn .I ⟨op, some f3, none⟩) (rd rs1 : Resolved) (imm : Int) :
    encodeStep e ⟨mn, .immediate rd rs1 imm⟩ =
      (dstField rd).bind fun d => (srcField rs1).bind fun a => (requireRange (imm12Ok imm) imm).bind fun _ =>
        .ok (packI (immField imm) a f3 d op) := by
  obtain ⟨hcat, hopt⟩ := hrow
  simp only [encodeStep, encI, requireCategory_of_eq hcat, lookup_of_some hopt, Result.bind_ok, funct3For,
    Option.getD_some]

/-! ### The obligation -/

/-- R140, once for every instruction that delivers the immediate step of its mnemonic. -/
theorem immediateEncodes {mn : Token} {op : BitVec 7} {f3 : BitVec 3} {ins : Resolved → Resolved → Int → Instr}
    (hexec : ∀ rd rs1 imm s, exec (ins rd rs1 imm) s = deliverStep s ⟨mn, .immediate rd rs1 imm⟩) :
    ImmediateEncodes mn op f3 ins := by
  intro s rd rs1 imm
  rw [hexec]
  refine ⟨fun hforeign => deliverStep_of_err (encodeStep_of_foreign hforeign),
    fun hc hnone => deliverStep_of_err (encodeStep_of_noRow hc hnone), fun hrow => ?_⟩
  have hstep := encodeStep_immediate hrow rd rs1 imm
  refine ⟨?word, ?destination, ?source, ?range⟩
  case word =>
    rintro d a rfl ha hlo hhi
    have hok : imm12Ok imm = true := imm12Ok_iff.mpr ⟨hlo, hhi⟩
    exact deliverStep_of_ok (by simp [hstep, srcField_of_srcSlot ha, hok, immField_eq_ofInt_emod, packI])
  case destination =>
    rintro n rfl
    exact deliverStep_of_err (by simp [hstep])
  case source =>
    rintro d n rfl rfl hn
    exact deliverStep_of_err (by simp [hstep, srcField_disp_large hn])
  case range =>
    rintro d a rfl ha hout
    have hbad : imm12Ok imm = false := imm12Ok_eq_false_iff.mpr hout
    exact deliverStep_of_err (by simp [hstep, srcField_of_srcSlot ha, hbad])

/-- Settles O21: each of the twelve instructions delivers the step of its mnemonic, with the fields of its rule. -/
theorem immediateInstructionsEncode : Obligations.ImmediateInstructionsEncode := by
  refine ⟨?_, ?_, ?_, ?_, ?_, ?_, ?_, ?_, ?_, ?_, ?_, ?_⟩ <;> exact immediateEncodes fun _ _ _ _ => rfl

end Sys2Proof.Machine
end

section
/-! The store instructions (spec/43_store.md R170 to R173). The idea: the three instructions are the one encoder of R170 under
three mnemonics, so each clause is proved once for any mnemonic and funct3; a run of bits of a truncated integer is the
truncated quotient, which gives both halves of the split immediate. -/

namespace Sys2Proof.Machine

/-! ### The split immediate -/

theorem ofInt_emod_two_pow (n : Nat) (v : Int) : BitVec.ofInt n (v % 2 ^ n) = BitVec.ofInt n v := by
  apply BitVec.eq_of_toNat_eq
  simp [BitVec.toNat_ofInt]

/-- The bits from `s` on of an integer truncated to enough bits are those of its quotient by `2 ^ s`. -/
theorem extractLsb'_ofInt {n s l : Nat} (v : Int) (h : s + l ≤ n) :
    (BitVec.ofInt n v).extractLsb' s l = BitVec.ofInt l (v / 2 ^ s) := by
  obtain ⟨k, rfl⟩ := Nat.exists_eq_add_of_le h
  have hcut : v % 2 ^ (s + l + k) / 2 ^ s % 2 ^ l = v / 2 ^ s % 2 ^ l := by
    rw [Int.emod_def v, pow_add, pow_add, mul_assoc, mul_assoc, Int.sub_mul_ediv_left _ _ (by positivity),
      Int.sub_mul_emod_self_left]
  apply BitVec.eq_of_toNat_eq
  zify
  simpa [BitVec.toNat_ofInt, Nat.shiftRight_eq_div_pow, Int.emod_nonneg] using hcut

theorem immField_high (v : Int) : (immField v).extractLsb' 5 7 = BitVec.ofInt 7 (v % 4096 / 32) := by
  rw [immField_eq_ofInt_emod, extractLsb'_ofInt _ (by decide)]
  rfl

theorem immField_low (v : Int) : (immField v).extractLsb' 0 5 = BitVec.ofInt 5 (v % 32) := by
  rw [immField_eq_ofInt, extractLsb'_ofInt _ (by decide), pow_zero, Int.ediv_one]
  exact (ofInt_emod_two_pow 5 v).symm

/-! ### The slots of format S -/

/-- With its row held, a store step is its two slots and its range test in order, then the layout of R64 (R170). -/
theorem encodeStep_store {e : Engine} {mn : Token} {op : BitVec 7} {f3 : BitVec 3}
    (hrow : HoldsRow e mn .S ⟨op, some f3, none⟩) (rs2 rs1 : Resolved) (imm : Int) :
    encodeStep e ⟨mn, .store rs2 rs1 imm⟩ =
      (srcField rs2).bind fun b => (srcField rs1).bind fun a => (requireRange (imm12Ok imm) imm).bind fun _ =>
        .ok (packS (immField imm) b a f3 op) := by
  obtain ⟨hcat, hopt⟩ := hrow
  simp only [encodeStep, encS, requireCategory_of_eq hcat, lookup_of_some hopt, Result.bind_ok, funct3For,
    Option.getD_some]

/-! ### The obligation -/

/-- R170, once for every instruction that delivers the store step of its mnemonic. -/
theorem storeEncodes {mn : Token} {f3 : BitVec 3} {ins : Resolved → Resolved → Int → Instr}
    (hexec : ∀ rs2 rs1 imm s, exec (ins rs2 rs1 imm) s = deliverStep s ⟨mn, .store rs2 rs1 imm⟩) :
    StoreEncodes mn f3 ins := by
  intro s rs2 rs1 imm
  rw [hexec]
  refine ⟨fun hforeign => deliverStep_of_err (encodeStep_of_foreign hforeign),
    fun hc hnone => deliverStep_of_err (encodeStep_of_noRow hc hnone), fun hrow => ?_⟩
  have hstep := encodeStep_store hrow rs2 rs1 imm
  refine ⟨?word, ?value, ?base, ?range⟩
  case word =>
    intro b a hb ha hlo hhi
    have hok : imm12Ok imm = true := imm12Ok_iff.mpr ⟨hlo, hhi⟩
    exact deliverStep_of_ok (by
      simp [hstep, srcField_of_srcSlot hb, srcField_of_srcSlot ha, hok, packS, immField_high, immField_low])
  case value =>
    rintro n rfl hn
    exact deliverStep_of_err (by simp [hstep, srcField_disp_large hn])
  case base =>
    rintro b n hb rfl hn
    exact deliverStep_of_err (by simp [hstep, srcField_of_srcSlot hb, srcField_disp_large hn])
  case range =>
    intro b a hb ha hout
    have hbad : imm12Ok imm = false := imm12Ok_eq_false_iff.mpr hout
    exact deliverStep_of_err (by simp [hstep, srcField_of_srcSlot hb, srcField_of_srcSlot ha, hbad])

/-- Settles O22: each of the three instructions delivers the step of its mnemonic, with the fields of its rule. -/
theorem storeInstructionsEncode : Obligations.StoreInstructionsEncode := by
  refine ⟨?_, ?_, ?_⟩ <;> exact storeEncodes fun _ _ _ _ => rfl

end Sys2Proof.Machine
end

section
/-! The branch instructions (spec/44_branch.md R180 to R186). The idea: the six instructions are the one encoder of R180 under
six mnemonics, so each clause is proved once for any mnemonic and funct3; each piece of the reordered offset is a run of bits
of the truncated offset, so a truncated quotient of the offset itself. -/

namespace Sys2Proof.Machine

/-! ### The reordered offset -/

theorem branchOk_eq_false_iff {v : Int} : branchOk v = false ↔ v < -4096 ∨ 4094 < v ∨ v % 2 ≠ 0 := by
  rw [← Bool.not_eq_true, branchOk_iff, not_and_or, not_and_or, not_le, not_le]

theorem branchField_extractLsb' {s l : Nat} (off : Int) (h : s + l ≤ 13) :
    (branchField off).extractLsb' s l = BitVec.ofInt l (off / 2 ^ s) := by
  rw [branchField_eq_ofInt, extractLsb'_ofInt off h]

/-- The layout of R65, each piece of the offset as a quotient: `off[12]`, `off[10:5]`, `off[4:1]`, `off[11]`. -/
theorem packB_branchField (off : Int) (s2 s1 : RegIdx) (f3 : BitVec 3) (op : BitVec 7) :
    packB (branchField off) s2 s1 f3 op =
      BitVec.ofInt 1 (off / 4096) ++ BitVec.ofInt 6 (off / 32) ++ s2 ++ s1 ++ f3 ++ BitVec.ofInt 4 (off / 2)
        ++ BitVec.ofInt 1 (off / 2048) ++ op := by
  rw [packB]
  iterate 4 rw [branchField_extractLsb' off (by decide)]
  rfl

/-! ### The slots of format B -/

/-- With its row held, a branch step is its two slots and its offset test in order, then the layout of R65 (R180). -/
theorem encodeStep_branch {e : Engine} {mn : Token} {op : BitVec 7} {f3 : BitVec 3}
    (hrow : HoldsRow e mn .B ⟨op, some f3, none⟩) (rs1 rs2 : Resolved) (off : Int) :
    encodeStep e ⟨mn, .branch rs1 rs2 off⟩ =
      (srcField rs1).bind fun a => (srcField rs2).bind fun b => (requireRange (branchOk off) off).bind fun _ =>
        .ok (packB (branchField off) b a f3 op) := by
  obtain ⟨hcat, hopt⟩ := hrow
  simp only [encodeStep, encB, requireCategory_of_eq hcat, lookup_of_some hopt, Result.bind_ok, funct3For,
    Option.getD_some]

/-! ### The obligation -/

/-- R180, once for every instruction that delivers the branch step of its mnemonic. -/
theorem branchEncodes {mn : Token} {f3 : BitVec 3} {ins : Resolved → Resolved → Int → Instr}
    (hexec : ∀ rs1 rs2 off s, exec (ins rs1 rs2 off) s = deliverStep s ⟨mn, .branch rs1 rs2 off⟩) :
    BranchEncodes mn f3 ins := by
  intro s rs1 rs2 off
  rw [hexec]
  refine ⟨fun hforeign => deliverStep_of_err (encodeStep_of_foreign hforeign),
    fun hc hnone => deliverStep_of_err (encodeStep_of_noRow hc hnone), fun hrow => ?_⟩
  have hstep := encodeStep_branch hrow rs1 rs2 off
  refine ⟨?word, ?firstSource, ?secondSource, ?offset⟩
  case word =>
    intro a b ha hb hlo hhi heven
    have hok : branchOk off = true := branchOk_iff.mpr ⟨hlo, hhi, heven⟩
    exact deliverStep_of_ok (by
      simp [hstep, srcField_of_srcSlot ha, srcField_of_srcSlot hb, hok, packB_branchField])
  case firstSource =>
    rintro n rfl hn
    exact deliverStep_of_err (by simp [hstep, srcField_disp_large hn])
  case secondSource =>
    rintro a n ha rfl hn
    exact deliverStep_of_err (by simp [hstep, srcField_of_srcSlot ha, srcField_disp_large hn])
  case offset =>
    intro a b ha hb hout
    have hbad : branchOk off = false := branchOk_eq_false_iff.mpr hout
    exact deliverStep_of_err (by simp [hstep, srcField_of_srcSlot ha, srcField_of_srcSlot hb, hbad])

/-- Settles O23: each of the six instructions delivers the step of its mnemonic, with the fields of its rule. -/
theorem branchInstructionsEncode : Obligations.BranchInstructionsEncode := by
  refine ⟨?_, ?_, ?_, ?_, ?_, ?_⟩ <;> exact branchEncodes fun _ _ _ _ => rfl

end Sys2Proof.Machine
end

section
/-! The upper-immediate instructions (spec/45_upper_immediate.md R200 to R202). The idea: the two instructions are the one
encoder of R200 under two mnemonics, so each clause is proved once for any mnemonic and opcode; the operand is the field
itself, unshifted and cut to twenty bits. -/

namespace Sys2Proof.Machine

/-! ### The 20-bit operand -/

theorem upperOk_eq_false_iff {v : Int} : upperOk v = false ↔ v < -524288 ∨ 1048575 < v := by
  rw [← Bool.not_eq_true, upperOk_iff, not_and_or, not_le, not_le]

/-! ### The slot of format U -/

/-- With its row held, an upper-immediate step is its slot and its range test in order, then the layout of R66 (R200). -/
theorem encodeStep_upper {e : Engine} {mn : Token} {op : BitVec 7} (hrow : HoldsRow e mn .U ⟨op, none, none⟩)
    (rd : Resolved) (u : Int) :
    encodeStep e ⟨mn, .upper rd u⟩ =
      (dstField rd).bind fun d => (requireRange (upperOk u) u).bind fun _ => .ok (packU (upperField u) d op) := by
  obtain ⟨hcat, hopt⟩ := hrow
  simp only [encodeStep, encU, requireCategory_of_eq hcat, lookup_of_some hopt, Result.bind_ok]

/-! ### The obligation -/

/-- R200, once for every instruction that delivers the upper-immediate step of its mnemonic. -/
theorem upperEncodes {mn : Token} {op : BitVec 7} {ins : Resolved → Int → Instr}
    (hexec : ∀ rd u s, exec (ins rd u) s = deliverStep s ⟨mn, .upper rd u⟩) : UpperEncodes mn op ins := by
  intro s rd u
  rw [hexec]
  refine ⟨fun hforeign => deliverStep_of_err (encodeStep_of_foreign hforeign),
    fun hc hnone => deliverStep_of_err (encodeStep_of_noRow hc hnone), fun hrow => ?_⟩
  have hstep := encodeStep_upper hrow rd u
  refine ⟨?word, ?destination, ?range⟩
  case word =>
    rintro d rfl hlo hhi
    have hok : upperOk u = true := upperOk_iff.mpr ⟨hlo, hhi⟩
    exact deliverStep_of_ok (by simp [hstep, hok, upperField, packU])
  case destination =>
    rintro n rfl
    exact deliverStep_of_err (by simp [hstep])
  case range =>
    rintro d rfl hout
    have hbad : upperOk u = false := upperOk_eq_false_iff.mpr hout
    exact deliverStep_of_err (by simp [hstep, hbad])

/-- Settles O24: each of the two instructions delivers the step of its mnemonic, with the opcode of its rule. -/
theorem upperImmediateInstructionsEncode : Obligations.UpperImmediateInstructionsEncode := by
  refine ⟨?_, ?_⟩ <;> exact upperEncodes fun _ _ _ => rfl

end Sys2Proof.Machine
end

section
/-! The jump (spec/46_jump.md R210, R211). The idea: each piece of the reordered offset is a run of bits of the truncated
offset, so a truncated quotient of the offset itself; `J_ALIGN` enters only through the offset test, so neither of its values
needs a case of its own. -/

namespace Sys2Proof.Machine

/-! ### The reordered offset -/

theorem jumpOk_eq_false_iff {al : JAlign} {v : Int} :
    jumpOk al v = false ↔ v < -1048576 ∨ 1048574 < v ∨ v % jAlignBytes al ≠ 0 := by
  rw [← Bool.not_eq_true, jumpOk_iff, not_and_or, not_and_or, not_le, not_le]

theorem jumpField_extractLsb' {s l : Nat} (off : Int) (h : s + l ≤ 21) :
    (jumpField off).extractLsb' s l = BitVec.ofInt l (off / 2 ^ s) := by
  rw [jumpField_eq_ofInt, extractLsb'_ofInt off h]

/-- The layout of R67, each piece of the offset as a quotient: `off[20]`, `off[10:1]`, `off[11]`, `off[19:12]`. -/
theorem packJ_jumpField (off : Int) (d : RegIdx) (op : BitVec 7) :
    packJ (jumpField off) d op =
      BitVec.ofInt 1 (off / 1048576) ++ BitVec.ofInt 10 (off / 2) ++ BitVec.ofInt 1 (off / 2048)
        ++ BitVec.ofInt 8 (off / 4096) ++ d ++ op := by
  rw [packJ]
  iterate 4 rw [jumpField_extractLsb' off (by decide)]
  rfl

/-! ### The slot of format J -/

/-- With its row held, a jump step is its destination slot and its offset test in order, then the layout of R67 (R210). -/
theorem encodeStep_jump {e : Engine} {mn : Token} {op : BitVec 7} (hrow : HoldsRow e mn .J ⟨op, none, none⟩)
    (rd : Resolved) (off : Int) :
    encodeStep e ⟨mn, .jump rd off⟩ =
      (dstField rd).bind fun d => (requireRange (jumpOk e.params.jAlign off) off).bind fun _ =>
        .ok (packJ (jumpField off) d op) := by
  obtain ⟨hcat, hopt⟩ := hrow
  simp only [encodeStep, encJ, requireCategory_of_eq hcat, lookup_of_some hopt, Result.bind_ok]

/-! ### The obligation -/

theorem exec_jal (rd : Resolved) (off : Int) (s : State) :
    exec (.jal rd off) s = deliverStep s ⟨"jal", .jump rd off⟩ := rfl

/-- Settles O25: `jal` delivers the jump step of its mnemonic, with the opcode of R211. -/
theorem jumpInstructionEncodes : Obligations.JumpInstructionEncodes := by
  intro s rd off
  rw [exec_jal]
  refine ⟨fun hforeign => deliverStep_of_err (encodeStep_of_foreign hforeign),
    fun hc hnone => deliverStep_of_err (encodeStep_of_noRow hc hnone), fun hrow => ?_⟩
  have hstep := encodeStep_jump hrow rd off
  refine ⟨?word, ?destination, ?offset⟩
  case word =>
    rintro d rfl hlo hhi halign
    have hok : jumpOk s.engine.params.jAlign off = true := jumpOk_iff.mpr ⟨hlo, hhi, halign⟩
    exact deliverStep_of_ok (by simp [hstep, hok, packJ_jumpField])
  case destination =>
    rintro n rfl
    exact deliverStep_of_err (by simp [hstep])
  case offset =>
    rintro d rfl hout
    have hbad : jumpOk s.engine.params.jAlign off = false := jumpOk_eq_false_iff.mpr hout
    exact deliverStep_of_err (by simp [hstep, hbad])

end Sys2Proof.Machine
end

section
/-! Construction and its end (spec/70_reset_and_hazards.md R302, R303; spec/10_state.md R34), what a step can answer
(spec/60_exceptions.md R275; spec/70_reset_and_hazards.md R304), and the first test of every encoder (spec/60_exceptions.md
R273). The idea of the middle one: a step gives the state back, or is refused, or adds one response, and a response touches
neither the tables nor the phase. -/

namespace Sys2Proof.Machine

/-! ### The loader's operations -/

theorem loadTables_of_loading {s : State} {done : Loaded} (h : s.phase = .loading done) (e : Engine)
    (note : Loaded → Loaded) :
    loadTables s e note = .next { s with engine := e, phase := .loading (note done) } := by
  simp [loadTables, h]

theorem loadTables_of_ready {s : State} (h : s.phase = .ready) (e : Engine) (note : Loaded → Loaded) :
    loadTables s e note = .refused .alreadyConstructed := by
  simp [loadTables, h]

theorem construct_of_ready {s : State} (h : s.phase = .ready) : construct s = .refused .alreadyConstructed := by
  simp [construct, h]

theorem complete_iff {done : Loaded} : done.complete = true ↔ done = ⟨true, true, true⟩ := by
  obtain ⟨o, c, r⟩ := done
  simp [Loaded.complete, and_assoc]

section
variable {s : State} {done : Loaded} (hphase : s.phase = .loading done) (hreq : s.requests = [])
include hphase hreq

theorem construct_of_incomplete (h : done ≠ ⟨true, true, true⟩) : construct s = .refused .incompleteConstruction := by
  have hc : done.complete = false := Bool.eq_false_iff.mpr (mt complete_iff.mp h)
  simp [construct, hphase, hreq, hc]

theorem construct_of_complete (h : done = ⟨true, true, true⟩) :
    construct s = if engineWf s.engine then .next { s with phase := .ready } else .refused .illFormedConfiguration := by
  simp [construct, hphase, hreq, complete_iff.mpr h]

end

/-- Settles O13: the three loads are one write under three notes, and construction tests the notes, then the tables. -/
theorem constructionChecksTheConfiguration : Obligations.ConstructionChecksTheConfiguration := by
  intro s done hphase
  refine ⟨fun t => loadTables_of_loading hphase _ _, fun t => loadTables_of_loading hphase _ _,
    fun t => loadTables_of_loading hphase _ _, fun hreq => ⟨construct_of_incomplete hphase hreq, ?_, ?_⟩⟩
  · intro hdone hwf
    rw [construct_of_complete hphase hreq hdone, if_pos hwf]
  · intro hdone hill
    rw [construct_of_complete hphase hreq hdone, if_neg (by simp [hill])]

/-! ### What a step can answer -/

theorem step_idle {s : State} (h : s.requests = []) : step s = .next s := by
  simp [step, serveNext, h]

/-- Everything a step can answer: the same state, a refusal, or its next request taken and one response more. -/
theorem step_outcome (s : State) :
    step s = .next s ∨ (∃ r, step s = .refused r) ∨ ∃ rest a, step s = .next ((s.withRequests rest).respond a) := by
  rcases step_cases s with ⟨-, hidle⟩ | ⟨_, _, -, -, hrefused⟩ | ⟨q, rest, hq, hready, -⟩
  · exact .inl hidle
  · exact .inr (.inl ⟨_, hrefused⟩)
  · rw [step_eq_deliver hready hq]
    rcases deliver_cases (s.withRequests rest) (requestWords s.engine q) with ⟨ws, -, h⟩ | ⟨f, -, h⟩ | ⟨-, h⟩
    · exact .inr (.inr ⟨rest, _, h⟩)
    · exact .inr (.inr ⟨rest, _, h⟩)
    · exact .inr (.inl ⟨_, h⟩)

/-- Settles O36: with no request there is nothing to serve. -/
theorem idleStepChangesNothing : Obligations.IdleStepChangesNothing := fun _ => step_idle

/-- Settles O46: none of a step's answers is a fault. -/
theorem stepNeverFaults : Obligations.StepNeverFaults := by
  intro s r hfault
  rcases step_outcome s with h | ⟨_, h⟩ | ⟨_, _, h⟩ <;> rw [h] at hfault <;> cases hfault

/-- Settles O14: the loader is refused by the phase, and neither the engine nor the phase is part of a response. -/
theorem constructedTablesNeverChange : Obligations.ConstructedTablesNeverChange := by
  refine ⟨fun s o c r hready => ?_, fun s t hstep => ?_⟩
  · exact ⟨loadTables_of_ready hready _ _, loadTables_of_ready hready _ _, loadTables_of_ready hready _ _,
      construct_of_ready hready⟩
  · rcases step_outcome s with h | ⟨_, h⟩ | ⟨_, _, h⟩ <;> rw [h] at hstep <;> cases hstep
    · exact ⟨rfl, rfl⟩
    · exact ⟨rfl, rfl⟩

/-! ### The first test of the encoders -/

/-- Settles O19: each encoder is the encoding of a step of its format, which tests the category first. -/
theorem encodersRejectForeignMnemonics : Obligations.EncodersRejectForeignMnemonics := by
  intro e mn a b c v
  exact ⟨encodeStep_of_foreign (args := .regReg a b c), encodeStep_of_foreign (args := .immediate a b v),
    encodeStep_of_foreign (args := .store a b v), encodeStep_of_foreign (args := .branch a b v),
    encodeStep_of_foreign (args := .upper a v), encodeStep_of_foreign (args := .jump a v)⟩

end Sys2Proof.Machine
end

section
/-! The pseudo-instructions (spec/47_pseudo.md R221 to R231). The idea: ten of them deliver the one step of a real instruction,
so their words are that instruction's; a wide `li` is a `lui` and an `addi` whose two range tests alone decide its outcome once
the destination is a register. -/

namespace Sys2Proof.Machine

/-! ### The words of the real instructions, out of their statements -/

theorem word_of_regRegEncodes {mn : Token} {f7 : BitVec 7} {f3 : BitVec 3}
    {ins : Resolved → Resolved → Resolved → Instr} (h : RegRegEncodes mn f7 f3 ins) {s : State}
    (hrow : HoldsRow s.engine mn .R ⟨0b0110011#7, some f3, some f7⟩) {rd rs1 rs2 : Resolved} {d a b : RegIdx}
    (hd : rd = .reg d) (ha : SrcSlot rs1 a) (hb : SrcSlot rs2 b) :
    exec (ins rd rs1 rs2) s = .next (s.respond (.words [f7 ++ b ++ a ++ f3 ++ d ++ 0b0110011#7])) := by
  obtain ⟨-, -, hheld⟩ := h s rd rs1 rs2
  obtain ⟨hword, -⟩ := hheld hrow
  exact hword d a b hd ha hb

theorem word_of_immediateEncodes {mn : Token} {op : BitVec 7} {f3 : BitVec 3} {ins : Resolved → Resolved → Int → Instr}
    (h : ImmediateEncodes mn op f3 ins) {s : State} (hrow : HoldsRow s.engine mn .I ⟨op, some f3, none⟩)
    {rd rs1 : Resolved} {d a : RegIdx} {imm : Int} (hd : rd = .reg d) (ha : SrcSlot rs1 a) (hlo : -2048 ≤ imm)
    (hhi : imm ≤ 2047) :
    exec (ins rd rs1 imm) s = .next (s.respond (.words [BitVec.ofInt 12 (imm % 4096) ++ a ++ f3 ++ d ++ op])) := by
  obtain ⟨-, -, hheld⟩ := h s rd rs1 imm
  obtain ⟨hword, -⟩ := hheld hrow
  exact hword d a hd ha hlo hhi

theorem word_of_branchEncodes {mn : Token} {f3 : BitVec 3} {ins : Resolved → Resolved → Int → Instr}
    (h : BranchEncodes mn f3 ins) {s : State} (hrow : HoldsRow s.engine mn .B ⟨0b1100011#7, some f3, none⟩)
    {rs1 rs2 : Resolved} {a b : RegIdx} {off : Int} (ha : SrcSlot rs1 a) (hb : SrcSlot rs2 b) (hlo : -4096 ≤ off)
    (hhi : off ≤ 4094) (heven : off % 2 = 0) :
    exec (ins rs1 rs2 off) s
      = .next (s.respond (.words
          [BitVec.ofInt 1 (off / 4096) ++ BitVec.ofInt 6 (off / 32) ++ b ++ a ++ f3 ++ BitVec.ofInt 4 (off / 2)
            ++ BitVec.ofInt 1 (off / 2048) ++ 0b1100011#7])) := by
  obtain ⟨-, -, hheld⟩ := h s rs1 rs2 off
  obtain ⟨hword, -⟩ := hheld hrow
  exact hword a b ha hb hlo hhi heven

theorem word_of_upperEncodes {mn : Token} {op : BitVec 7} {ins : Resolved → Int → Instr} (h : UpperEncodes mn op ins)
    {s : State} (hrow : HoldsRow s.engine mn .U ⟨op, none, none⟩) {rd : Resolved} {d : RegIdx} {u : Int}
    (hd : rd = .reg d) (hlo : -524288 ≤ u) (hhi : u ≤ 1048575) :
    exec (ins rd u) s = .next (s.respond (.words [BitVec.ofInt 20 (u % 1048576) ++ d ++ op])) := by
  obtain ⟨-, -, hheld⟩ := h s rd u
  obtain ⟨hword, -⟩ := hheld hrow
  exact hword d hd hlo hhi

theorem word_of_jal {s : State} (hrow : HoldsRow s.engine "jal" .J ⟨0b1101111#7, none, none⟩) {rd : Resolved}
    {d : RegIdx} {off : Int} (hd : rd = .reg d) (hlo : -1048576 ≤ off) (hhi : off ≤ 1048574)
    (halign : off % jAlignBytes s.engine.params.jAlign = 0) :
    exec (.jal rd off) s
      = .next (s.respond (.words
          [BitVec.ofInt 1 (off / 1048576) ++ BitVec.ofInt 10 (off / 2) ++ BitVec.ofInt 1 (off / 2048)
            ++ BitVec.ofInt 8 (off / 4096) ++ d ++ 0b1101111#7])) := by
  obtain ⟨-, -, hheld⟩ := jumpInstructionEncodes s rd off
  obtain ⟨hword, -⟩ := hheld hrow
  exact hword d hd hlo hhi halign

/-! ### The ten pseudo-instructions of one step -/

/-- An expansion of one step is delivered as the real instruction of that step. -/
theorem deliverExpansion_single (s : State) (st : RealStep) : deliverExpansion s (.ok [st]) = deliverStep s st := rfl

/-- Settles O28: both sides deliver the one step of the expansion. -/
theorem pseudoInstructionsAreTheirExpansions : Obligations.PseudoInstructionsAreTheirExpansions := by
  intro s a b v
  refine ⟨?_, ?_, ?_, ?_, ?_, ?_, ?_, ?_, ?_, ?_⟩ <;> exact deliverExpansion_single s _

/-- Settles O29: each pseudo-instruction has the word of its real instruction, on the operands of its expansion. -/
theorem pseudoInstructionsComplete : Obligations.PseudoInstructionsComplete := by
  intro s rd r1 r2 d a b v hd ha hb
  obtain ⟨hmv, hnop, hnot, hneg, hla, hj, hjlink, hret, -, -⟩ := pseudoInstructionsAreTheirExpansions s rd r1 v
  obtain ⟨-, -, -, -, -, -, -, -, hbgt, hble⟩ := pseudoInstructionsAreTheirExpansions s r1 r2 v
  have hreg (i : RegIdx) : SrcSlot (.reg i) i := .inl rfl
  rw [hmv, hnop, hnot, hneg, hla, hj, hjlink, hret, hbgt, hble]
  refine ⟨fun hrow => ⟨?mv, ?nop⟩, fun hrow => ?not, fun hrow => ?neg, fun hrow hlo hhi => ?la,
    fun hrow hlo hhi halign => ⟨?j, ?jlink⟩, fun hrow => ?ret, fun hrow hlo hhi heven => ?bgt,
    fun hrow hlo hhi heven => ?ble⟩
  case mv => exact word_of_immediateEncodes (immediateEncodes fun _ _ _ _ => rfl) hrow hd ha (by decide) (by decide)
  case nop =>
    exact word_of_immediateEncodes (immediateEncodes fun _ _ _ _ => rfl) hrow rfl (hreg _) (by decide) (by decide)
  case not => exact word_of_immediateEncodes (immediateEncodes fun _ _ _ _ => rfl) hrow hd ha (by decide) (by decide)
  case neg => exact word_of_regRegEncodes (regRegEncodes fun _ _ _ _ => rfl) hrow hd (hreg _) ha
  case la => exact word_of_upperEncodes (upperEncodes fun _ _ _ => rfl) hrow hd hlo hhi
  case j => exact word_of_jal hrow rfl hlo hhi halign
  case jlink => exact word_of_jal hrow hd hlo hhi halign
  case ret =>
    exact word_of_immediateEncodes (immediateEncodes fun _ _ _ _ => rfl) hrow rfl (hreg _) (by decide) (by decide)
  case bgt => exact word_of_branchEncodes (branchEncodes fun _ _ _ _ => rfl) hrow hb ha hlo hhi heven
  case ble => exact word_of_branchEncodes (branchEncodes fun _ _ _ _ => rfl) hrow hb ha hlo hhi heven

/-! ### `li` (R221) -/

theorem liLow_emod (v : Int) : liLow v % 4096 = v % 4096 := by
  have hsext : liLow v % 4096 = slice v 11 0 % 4096 := sext_emod 12 _
  rw [hsext, slice, shr]
  omega

/-- Settles O27: the parts are in range, and `hi` rounds up by the 4096 that reading `lo` as negative takes away. -/
theorem loadImmediateSplitAddsUp : Obligations.LoadImmediateSplitAddsUp := by
  intro imm
  obtain ⟨hlo, hlo'⟩ := imm12Ok_iff.mp (imm12Ok_liLow (imm % 2 ^ 32))
  obtain ⟨-, hhi'⟩ := upperOk_iff.mp (upperOk_liHigh (imm % 2 ^ 32))
  have hlow := liLow_emod (imm % 2 ^ 32)
  refine ⟨hlo, hlo', ?_, hhi', ?_⟩
  · rw [liHigh]
    omega
  · rw [liHigh, shl, shr]
    omega

theorem liRangeOk_32_iff {v : Int} : liRangeOk 32 v = true ↔ -2147483648 ≤ v ∧ v ≤ 4294967295 := by
  simp [liRangeOk]

theorem exec_li_eq (rd : Resolved) (imm : Int) (s : State) :
    exec (.li rd imm) s = deliver s ((expandLi s.engine.params rd imm).bind (encodeSteps s.engine)) := rfl

/-- A `li` whose immediate fits twelve bits is an `addi` on the zero register. -/
theorem exec_li_narrow {s : State} {imm : Int} (h : imm12Ok imm = true) (rd : Resolved) :
    exec (.li rd imm) s = exec (.addi rd (.reg s.engine.params.zeroReg) imm) s := by
  rw [exec_li_eq, expandLi, if_pos h]
  exact deliverExpansion_single s _

/-- A `li` whose immediate does not is the two steps of its split. -/
theorem exec_li_split {s : State} {imm : Int} (hwidth : s.engine.params.liWidth = 32) (h : imm12Ok imm = false)
    (hlo : -2147483648 ≤ imm) (hhi : imm ≤ 4294967295) (rd : Resolved) :
    exec (.li rd imm) s =
      deliver s (encodeSteps s.engine (liWideSteps s.engine.params.liSplit rd (imm % 4294967296))) := by
  have hrange : liRangeOk s.engine.params.liWidth imm = true := hwidth ▸ liRangeOk_32_iff.mpr ⟨hlo, hhi⟩
  rw [exec_li_eq, expandLi, if_neg (by simp [h]), if_pos hrange, hwidth]
  rfl

theorem exec_li_outOfRange {s : State} {imm : Int} (hwidth : s.engine.params.liWidth = 32)
    (h : imm < -2147483648 ∨ 4294967295 < imm) (rd : Resolved) :
    exec (.li rd imm) s = .next (s.respond (.error ⟨.operandRangeError, .value imm⟩)) := by
  have hwide : imm12Ok imm = false := imm12Ok_eq_false_iff.mpr (by omega)
  have hrange : ¬ liRangeOk s.engine.params.liWidth imm = true := by
    rw [hwidth, liRangeOk_32_iff]
    omega
  rw [exec_li_eq, expandLi, if_neg (by simp [hwide]), if_neg hrange]
  rfl

section
variable {e : Engine} (hlui : HoldsRow e "lui" .U ⟨0b0110111#7, none, none⟩)
include hlui

/-- A displacement as destination ends a wide `li` at its first step. -/
theorem encodeSteps_liWideSteps_disp (split : LiSplit) (n : Nat) (v : Int) :
    encodeSteps e (liWideSteps split (.disp n) v) = .err ⟨.operandRangeError, .value n⟩ := by
  cases split <;> simp [liWideSteps, encodeSteps, encodeStep_upper hlui]

variable (haddi : HoldsRow e "addi" .I ⟨0b0010011#7, some 0b000#3, none⟩)
include haddi

/-- A `lui` and an `addi` on one register are two range tests in order, then the two words. -/
theorem encodeSteps_lui_addi (d : RegIdx) (hi lo : Int) :
    encodeSteps e [⟨"lui", .upper (.reg d) hi⟩, ⟨"addi", .immediate (.reg d) (.reg d) lo⟩] =
      (requireRange (upperOk hi) hi).bind fun _ => (requireRange (imm12Ok lo) lo).bind fun _ =>
        .ok [BitVec.ofInt 20 hi ++ d ++ 0b0110111#7,
          BitVec.ofInt 12 (lo % 4096) ++ d ++ 0b000#3 ++ d ++ 0b0010011#7] := by
  simp [encodeSteps, encodeStep_upper hlui, encodeStep_immediate haddi, Result.bind_assoc, upperField_eq_ofInt,
    immField_eq_ofInt_emod, packU, packI]

theorem encodeSteps_liWideSteps_compensated (d : RegIdx) (v : Int) :
    encodeSteps e (liWideSteps .compensated (.reg d) v) =
      .ok [BitVec.ofInt 20 ((v + 2048) / 4096 % 1048576) ++ d ++ 0b0110111#7,
        BitVec.ofInt 12 (v % 4096) ++ d ++ 0b000#3 ++ d ++ 0b0010011#7] := by
  rw [liWideSteps, encodeSteps_lui_addi hlui haddi, upperOk_liHigh, imm12Ok_liLow, liLow_emod]
  rfl

/-- The plain split of a 32-bit value: the upper part always fits, the lower part is tested. -/
theorem encodeSteps_liWideSteps_plain (d : RegIdx) {v : Int} (hlo : 0 ≤ v) (hhi : v ≤ 4294967295) :
    encodeSteps e (liWideSteps .plain (.reg d) v) =
      (requireRange (imm12Ok (v % 4096)) (v % 4096)).bind fun _ =>
        .ok [BitVec.ofInt 20 (v / 4096) ++ d ++ 0b0110111#7,
          BitVec.ofInt 12 (v % 4096) ++ d ++ 0b000#3 ++ d ++ 0b0010011#7] := by
  have hupper : upperOk (shr v 12) = true := by
    rw [upperOk_iff, shr]
    omega
  rw [liWideSteps, encodeSteps_lui_addi hlui haddi, hupper, Int.emod_emod]
  rfl

end

/-- Settles O26: the three cases of the expansion, the wide one by its split. -/
theorem loadImmediateEncodes : Obligations.LoadImmediateEncodes := by
  intro s rd imm hwidth hlui haddi
  refine ⟨?oneWord, ?twoWords, fun hout => exec_li_outOfRange hwidth hout rd, ?destination⟩
  case oneWord =>
    intro d hd hlo hhi
    rw [exec_li_narrow (imm12Ok_iff.mpr ⟨hlo, hhi⟩)]
    exact word_of_immediateEncodes (immediateEncodes fun _ _ _ _ => rfl) haddi hd (.inl rfl) hlo hhi
  case twoWords =>
    rintro d v rfl hwide hlo hhi rfl
    rw [exec_li_split hwidth (imm12Ok_eq_false_iff.mpr hwide) hlo hhi]
    have hplain := encodeSteps_liWideSteps_plain hlui haddi d (v := imm % 4294967296) (by omega) (by omega)
    refine ⟨fun hsplit => ?_, fun hsplit hlow => ?_, fun hsplit hlow => ?_⟩
    · rw [hsplit, encodeSteps_liWideSteps_compensated hlui haddi, deliver_ok]
    · have hok : imm12Ok (imm % 4294967296 % 4096) = true := imm12Ok_iff.mpr (by omega)
      rw [hsplit, hplain, hok, requireRange_true, Result.bind_ok, deliver_ok]
    · have hbad : imm12Ok (imm % 4294967296 % 4096) = false := imm12Ok_eq_false_iff.mpr (by omega)
      rw [hsplit, hplain, hbad, requireRange_false, Result.bind_err, deliver_err]
  case destination =>
    rintro n rfl hlo hhi
    cases h : imm12Ok imm with
    | true =>
      rw [exec_li_narrow h]
      exact deliverStep_of_err (by simp [encodeStep_immediate haddi])
    | false => rw [exec_li_split hwidth h hlo hhi, encodeSteps_liWideSteps_disp hlui, deliver_err]

end Sys2Proof.Machine
end

section
/-! An instruction has words exactly when its operands are encodable (spec/60_exceptions.md R274). The idea: every slot and
every range check answers exactly when its test holds, and otherwise raises `OperandRangeError`; a sequence of such operations
answers exactly when all their tests hold. -/

namespace Sys2Proof

open Machine

/-! ### Operations decided by a test -/

/-- The operation answers when the test holds, and raises `OperandRangeError` with a value when it does not. -/
def Result.AnswersWhen {α : Type} (ok : Bool) (r : Result α) : Prop :=
  (ok = true → ∃ a, r = .ok a) ∧ (ok = false → ∃ v, r = .err ⟨.operandRangeError, .value v⟩)

theorem Result.answersWhen_ok {α : Type} (a : α) : (Result.ok a).AnswersWhen true := ⟨fun _ => ⟨a, rfl⟩, nofun⟩

theorem Result.answersWhen_err {α : Type} (v : Int) :
    (Result.err ⟨.operandRangeError, .value v⟩ : Result α).AnswersWhen false := ⟨nofun, fun _ => ⟨v, rfl⟩⟩

/-- A sequence answers when both tests hold. -/
theorem Result.AnswersWhen.bind {α β : Type} {ok ok' : Bool} {r : Result α} {k : α → Result β} (hr : r.AnswersWhen ok)
    (hk : ∀ a, (k a).AnswersWhen ok') : (r.bind k).AnswersWhen (ok && ok') := by
  cases ok with
  | true =>
    obtain ⟨a, rfl⟩ := hr.1 rfl
    exact hk a
  | false =>
    obtain ⟨v, rfl⟩ := hr.2 rfl
    exact answersWhen_err v

namespace Machine

theorem dstField_answersWhen (r : Resolved) : (dstField r).AnswersWhen r.dstOk := by
  cases r with
  | reg i => exact Result.answersWhen_ok i
  | disp n => exact Result.answersWhen_err n

theorem srcField_answersWhen (r : Resolved) : (srcField r).AnswersWhen r.srcOk := by
  cases r with
  | reg i => exact Result.answersWhen_ok i
  | disp n =>
    by_cases h : n ≤ 31
    · simpa [srcField, Resolved.srcOk, h] using Result.answersWhen_ok _
    · simpa [srcField, Resolved.srcOk, h] using Result.answersWhen_err _

theorem requireRange_answersWhen (ok : Bool) (v : Int) : (requireRange ok v).AnswersWhen ok := by
  cases ok with
  | true => exact Result.answersWhen_ok ()
  | false => exact Result.answersWhen_err v

/-! ### Steps -/

/-- A step whose row the engine holds answers when its operands are admissible. -/
theorem encodeStep_answersWhen {e : Engine} {mn : Token} {args : Args} {fs : FieldSpec}
    (hrow : HoldsRow e mn (argsFormat args) fs) :
    (encodeStep e ⟨mn, args⟩).AnswersWhen (argsEncodable e.params args) := by
  obtain ⟨hcat, hopt⟩ := hrow
  replace hcat := requireCategory_of_eq hcat
  replace hopt := lookup_of_some hopt
  have hword (w : Word) := Result.answersWhen_ok w
  cases args <;> simp only [argsFormat] at hcat <;>
    simp only [encodeStep, encR, encI, encS, encB, encU, encJ, hcat, hopt, Result.bind_ok, argsEncodable, Bool.and_assoc]
  case regReg d a b =>
    simpa using (dstField_answersWhen d).bind fun _ => (srcField_answersWhen a).bind fun _ =>
      (srcField_answersWhen b).bind fun _ => hword _
  case immediate d a v =>
    simpa using (dstField_answersWhen d).bind fun _ => (srcField_answersWhen a).bind fun _ =>
      (requireRange_answersWhen (imm12Ok v) v).bind fun _ => hword _
  case store b a v =>
    simpa using (srcField_answersWhen b).bind fun _ => (srcField_answersWhen a).bind fun _ =>
      (requireRange_answersWhen (imm12Ok v) v).bind fun _ => hword _
  case branch a b v =>
    simpa using (srcField_answersWhen a).bind fun _ => (srcField_answersWhen b).bind fun _ =>
      (requireRange_answersWhen (branchOk v) v).bind fun _ => hword _
  case upper d u =>
    simpa using (dstField_answersWhen d).bind fun _ => (requireRange_answersWhen (upperOk u) u).bind fun _ => hword _
  case jump d v =>
    simpa using (dstField_answersWhen d).bind fun _ =>
      (requireRange_answersWhen (jumpOk e.params.jAlign v) v).bind fun _ => hword _

/-- The engine holds the row that the step is encoded from. -/
def RowHeld (e : Engine) (st : RealStep) : Prop := ∃ fs, HoldsRow e st.mn (argsFormat st.args) fs

theorem rowHeld_of_default {e : Engine} (hrows : HoldsDefaultRows e) {mn : Token} {args : Args}
    (hmem : (mn, argsFormat args) ∈ defaultRealCat) : RowHeld e ⟨mn, args⟩ := by
  obtain ⟨fs, -, hrow⟩ := hrows _ hmem
  exact ⟨fs, hrow⟩

/-- The operands of every step are admissible. -/
def stepsEncodable (p : Params) (sts : List RealStep) : Bool := sts.all fun st => argsEncodable p st.args

/-- Steps whose rows are held answer when all their operands are admissible. -/
theorem encodeSteps_answersWhen {e : Engine} {sts : List RealStep} (hsts : ∀ st ∈ sts, RowHeld e st) :
    (encodeSteps e sts).AnswersWhen (stepsEncodable e.params sts) := by
  induction sts with
  | nil => exact Result.answersWhen_ok []
  | cons st rest ih =>
    obtain ⟨⟨fs, hrow⟩, hrest⟩ := List.forall_mem_cons.mp hsts
    have htail (w : Word) := (ih hrest).bind fun ws => Result.answersWhen_ok (w :: ws)
    simpa [encodeSteps, stepsEncodable] using (encodeStep_answersWhen hrow).bind htail

/-! ### Instructions -/

/-- The words of an instruction's steps, over the default rows, are decided by its operands. -/
def DecidedByOperands (e : Engine) (i : Instr) : Prop :=
  ((instrSteps e.params i).bind (encodeSteps e)).AnswersWhen (i.encodable e.params)

theorem decidedByOperands_of_steps {e : Engine} {i : Instr} {sts : List RealStep}
    (hsteps : instrSteps e.params i = .ok sts) (hsts : ∀ st ∈ sts, RowHeld e st)
    (hok : stepsEncodable e.params sts = i.encodable e.params) : DecidedByOperands e i := by
  rw [DecidedByOperands, hsteps, ← hok]
  exact encodeSteps_answersWhen hsts

section
variable {e : Engine} (hrows : HoldsDefaultRows e)
include hrows

/-- An instruction of one step. -/
theorem decidedByOperands_of_step {i : Instr} {mn : Token} {args : Args}
    (hsteps : instrSteps e.params i = .ok [⟨mn, args⟩]) (hmem : (mn, argsFormat args) ∈ defaultRealCat)
    (hok : argsEncodable e.params args = i.encodable e.params) : DecidedByOperands e i :=
  decidedByOperands_of_steps hsteps (by simpa using rowHeld_of_default hrows hmem) (by simpa [stepsEncodable] using hok)

/-- `li` is decided by its destination and its immediate, in each case of its expansion (R221). -/
theorem decidedByOperands_li (d : Resolved) (v : Int) : DecidedByOperands e (.li d v) := by
  have haddi (a : Resolved) (u : Int) : RowHeld e ⟨"addi", .immediate d a u⟩ :=
    rowHeld_of_default hrows (by simp [argsFormat, defaultRealCat])
  have hlui (u : Int) : RowHeld e ⟨"lui", .upper d u⟩ :=
    rowHeld_of_default hrows (by simp [argsFormat, defaultRealCat])
  have hslot : (d.dstOk && d.srcOk) = d.dstOk := Bool.and_eq_left_iff_imp.mpr srcOk_of_dstOk
  rcases expandLi_cases e.params d v with ⟨hv, he⟩ | ⟨hv, hrange, he⟩ | ⟨hv, hrange, he⟩
  case inl =>
    refine decidedByOperands_of_steps he (by simp [haddi]) ?_
    simp [stepsEncodable, argsEncodable, Instr.encodable, liEncodable, hv, Resolved.srcOk]
  case inr.inl =>
    refine decidedByOperands_of_steps he (by cases e.params.liSplit <;> simp [liWideSteps, haddi, hlui]) ?_
    cases hsplit : e.params.liSplit with
    | compensated =>
      simp [stepsEncodable, liWideSteps, argsEncodable, Instr.encodable, liEncodable, hv, hrange, hsplit, hslot,
        upperOk_liHigh, imm12Ok_liLow]
    | plain =>
      cases hd : d.dstOk <;>
        simp_all [stepsEncodable, liWideSteps, argsEncodable, Instr.encodable, liEncodable]
  case inr.inr =>
    have hbad : (Instr.li d v).encodable e.params = false := by simp [Instr.encodable, liEncodable, hv, hrange]
    rw [DecidedByOperands, instrSteps, he, hbad]
    exact Result.answersWhen_err v

/-- Every instruction is one step of a default row, but for `li`. -/
theorem decidedByOperands (i : Instr) : DecidedByOperands e i := by
  cases i with
  | mv | not =>
    exact decidedByOperands_of_step hrows rfl (by simp [argsFormat, defaultRealCat])
      (by simp [argsEncodable, Instr.encodable, imm12Ok])
  | neg =>
    exact decidedByOperands_of_step hrows rfl (by simp [argsFormat, defaultRealCat])
      (by simp [argsEncodable, Instr.encodable, Resolved.srcOk])
  | bgt _ _ v | ble _ _ v =>
    exact decidedByOperands_of_step hrows rfl (by simp [argsFormat, defaultRealCat])
      (congrArg (· && branchOk v) (Bool.and_comm ..))
  | li d v => exact decidedByOperands_li hrows d v
  | _ => exact decidedByOperands_of_step hrows rfl (by simp [argsFormat, defaultRealCat]) rfl

end

/-- Settles O31: an instruction delivers the words of its steps, which its operands decide. -/
theorem wordsExactlyWhenEncodable : Obligations.WordsExactlyWhenEncodable := by
  intro i s hrows
  obtain ⟨hwords, herror⟩ := decidedByOperands hrows i
  rw [exec_eq_deliver]
  refine ⟨fun hok => ?_, fun hbad => ?_⟩
  · obtain ⟨ws, hws⟩ := hwords hok
    exact ⟨ws, by rw [hws, deliver_ok]⟩
  · obtain ⟨v, hv⟩ := herror hbad
    exact ⟨v, by rw [hv, deliver_err]⟩

end Machine

end Sys2Proof
end

section
/-! The dispatcher (spec/48_dispatcher.md R250 to R259). The idea: the decoder that a step runs and `dispatchLine` read a
request alike and differ in where they expand it, so their steps are the same steps; what a step does with a request is then
read off the stages of `dispatchLine`. -/

namespace Sys2Proof

open Machine

namespace Machine

/-! ### The steps of a classified request -/

theorem stepsOf_of_args {p : Params} {c : Category} {mn : Token} {ops : List Operand} {a : Args}
    (h : argsOf c ops = some a) : stepsOf p c mn ops = .ok [⟨mn, a⟩] := by
  cases c <;> simp_all [stepsOf, argsOf]

theorem stepsOf_of_noArgs {p : Params} {c : Category} {mn : Token} {ops : List Operand} (hreal : c ≠ .P)
    (h : argsOf c ops = none) : stepsOf p c mn ops = .malformed := by
  cases c <;> simp_all [stepsOf]

theorem stepsOf_of_pseudo {p : Params} {mn : Token} {k : PseudoOp} (h : (pseudoSpellings p).get? mn = some k)
    (ops : List Operand) : stepsOf p .P mn ops = expandOp p k ops := by
  simp [stepsOf, expand, h]

/-- The steps of a real request are those of what it decodes to (R255). -/
theorem stepsOf_eq_decodedReal {p : Params} {c : Category} (hreal : c ≠ .P) (mn : Token) (ops : List Operand) :
    stepsOf p c mn ops = (decodedReal mn c ops).bind (decodedSteps p) := by
  cases ha : argsOf c ops with
  | none => simp [stepsOf_of_noArgs hreal ha, decodedReal, ha]
  | some a =>
    cases hi : instrOfStep ⟨mn, a⟩ with
    | none => simp [stepsOf_of_args ha, decodedReal, ha, hi, decodedSteps]
    | some i => simp [stepsOf_of_args ha, decodedReal, ha, hi, decodedSteps, instrSteps_of_instrOfStep hi]

/-- The expansion of a pseudo-request is the steps of what it decodes to (R220, R256). -/
theorem expandOp_eq_decodedPseudo (p : Params) (k : PseudoOp) (ops : List Operand) :
    expandOp p k ops = (decodedPseudo k ops).bind (decodedSteps p) := by
  unfold expandOp
  split
  case h_12 => simp [decodedPseudo, instrOfPseudo]
  all_goals rfl

/-! ### `dispatchLine` by its stages -/

/-- A request classified, of the given shape: its operands, their steps, the words of these (R254 to R256). -/
theorem dispatchLine_of_shape {e : Engine} {mn : Token} {c : Category} {shape : List OperandKind}
    (hc : e.cat.get? mn = some c) (hshape : shapeOf e.params c mn = some shape) (toks : List Token) :
    dispatchLine e (mn :: toks) = (checkedOperands e shape toks).bind fun ops =>
      (stepsOf e.params c mn ops).bind (encodeSteps e) := by
  simp only [dispatchLine, classify_of_some hc, hshape, checkedOperands, Result.bind_ok]
  split <;> rfl

theorem dispatchLine_of_shapeOk {e : Engine} {mn : Token} {c : Category} {shape : List OperandKind} {toks : List Token}
    (hc : e.cat.get? mn = some c) (hshape : shapeOf e.params c mn = some shape) (hok : shapeOk shape toks = true) :
    dispatchLine e (mn :: toks) = (readOperands e shape toks).bind fun ops =>
      (stepsOf e.params c mn ops).bind (encodeSteps e) := by
  rw [dispatchLine_of_shape hc hshape, checkedOperands, if_pos hok]

theorem dispatchLine_of_unclassified {e : Engine} {mn : Token} (h : e.cat.get? mn = none) (toks : List Token) :
    dispatchLine e (mn :: toks) = .err ⟨.unknownMnemonic, .token mn⟩ := by
  rw [dispatchLine, classify_of_none h, Result.bind_err]

/-- Everything `dispatchLine` can do with a request that is not empty (R252 to R256). -/
theorem dispatchLine_cases (e : Engine) (mn : Token) (toks : List Token) :
    (e.cat.get? mn = none ∧ dispatchLine e (mn :: toks) = .err ⟨.unknownMnemonic, .token mn⟩) ∨
      dispatchLine e (mn :: toks) = .malformed ∨
      ∃ c shape, e.cat.get? mn = some c ∧ shapeOf e.params c mn = some shape ∧ shapeOk shape toks = true ∧
        dispatchLine e (mn :: toks) = (readOperands e shape toks).bind fun ops =>
          (stepsOf e.params c mn ops).bind (encodeSteps e) := by
  cases hc : e.cat.get? mn with
  | none => exact .inl ⟨rfl, dispatchLine_of_unclassified hc toks⟩
  | some c =>
    cases hshape : shapeOf e.params c mn with
    | none => exact .inr (.inl (by simp [dispatchLine, classify_of_some hc, hshape]))
    | some shape =>
      by_cases hok : shapeOk shape toks = true
      · exact .inr (.inr ⟨c, shape, rfl, hshape, hok, dispatchLine_of_shapeOk hc hshape hok⟩)
      · exact .inr (.inl (by simp [dispatchLine_of_shape hc hshape, checkedOperands, hok]))

/-! ### A step is `dispatchLine` -/

/-- The words of what a request decodes to are what `dispatchLine` answers (R256). -/
theorem requestWords_eq_dispatchLine (e : Engine) (q : Request) : requestWords e q = dispatchLine e q := by
  cases q with
  | nil => rfl
  | cons mn toks =>
    have hwords : decodedWords e = fun d => (decodedSteps e.params d).bind (encodeSteps e) :=
      funext (decodedWords_eq_bind e)
    cases hc : e.cat.get? mn with
    | none => simp [dispatchLine_of_unclassified hc, requestWords, decodeRequest, classify_of_none hc]
    | some c =>
      rcases eq_or_ne c .P with rfl | hreal
      · cases hk : (pseudoSpellings e.params).get? mn with
        | none => simp [requestWords, decodeRequest, dispatchLine, classify_of_some hc, hk, shapeOf]
        | some k =>
          rw [dispatchLine_of_shape (shape := pseudoShape k) hc (by simp [shapeOf, hk]), requestWords,
            decodeRequest_of_pseudo hc hk]
          simp only [hwords, stepsOf_of_pseudo hk, expandOp_eq_decodedPseudo, Result.bind_assoc]
      · rw [dispatchLine_of_shape hc (shapeOf_real hreal mn), requestWords, decodeRequest_of_real hc hreal]
        simp only [hwords, stepsOf_eq_decodedReal hreal, Result.bind_assoc]

/-- Settles O34: a step delivers the words of its request, which are `dispatchLine`'s. -/
theorem stepRefinesDispatchLine : Obligations.StepRefinesDispatchLine := by
  intro s q rest hready hq
  rw [step_eq_deliver hready hq, requestWords_eq_dispatchLine]

/-- Settles O33: what is delivered for a decoded instruction is its meaning. -/
theorem stepRunsTheDecodedInstruction : Obligations.StepRunsTheDecodedInstruction := by
  intro s q rest i hready hq hdecoded
  rw [step_eq_deliver hready hq, requestWords, hdecoded, exec_eq_deliver]
  rfl

/-- Settles O35: `dispatchLine` answers the empty request with no words. -/
theorem emptyRequestHasNoWords : Obligations.EmptyRequestHasNoWords := by
  intro s rest hready hq
  rw [stepRefinesDispatchLine s [] rest hready hq, dispatchLine, deliver_ok]

/-- Settles O37: classification is the first thing `dispatchLine` does. -/
theorem unknownMnemonicFailsFirst : Obligations.UnknownMnemonicFailsFirst := by
  intro s mn toks rest hready hq hc
  rw [stepRefinesDispatchLine s _ rest hready hq, dispatchLine_of_unclassified hc, deliver_err]

theorem image_append_error (rs : List Response) (f : Failure) : image (rs ++ [.error f]) = image rs := by
  simp [image, Response.image]

/-- Settles O44: a failure is delivered as one response, which adds nothing to the image. -/
theorem failureOutputsNothing : Obligations.FailureOutputsNothing := by
  intro s q rest f hready hq hfail
  refine ⟨(s.withRequests rest).respond (.error f), ?_, rfl, image_append_error _ f, rfl, rfl, rfl⟩
  rw [stepRefinesDispatchLine s q rest hready hq, hfail, deliver_err]

/-- Settles O41: `dispatchLine` answers a request's words, and their failures are reportable. -/
theorem unreachableErrorKinds : Obligations.UnreachableErrorKinds := by
  intro e q f hwf hfail
  have hwords := requestWords_satisfies hwf q
  rw [requestWords_eq_dispatchLine, hfail] at hwords
  obtain ⟨hstructural, htype⟩ := hwords
  exact ⟨htype, hstructural⟩

/-! ### Operands, left to right (R254) -/

/-- The first operand that cannot be read decides, whatever stands after it. -/
theorem readOperands_of_err {e : Engine} {k : OperandKind} {t : Token} {f : Failure} (hf : readOperand e k t = .err f)
    {kpre kpost : List OperandKind} {pre post : List Token} {ops : List Operand} (hlen : kpre.length = pre.length)
    (hpre : readOperands e kpre pre = .ok ops) :
    readOperands e (kpre ++ k :: kpost) (pre ++ t :: post) = .err f := by
  induction kpre generalizing pre ops with
  | nil =>
    obtain rfl := List.eq_nil_of_length_eq_zero hlen.symm
    simp [readOperands, hf]
  | cons k' kpre ih =>
    obtain ⟨t', pre, rfl⟩ := List.exists_cons_of_length_eq_add_one hlen.symm
    obtain ⟨o, ho, hrest⟩ := Result.bind_eq_ok.mp hpre
    obtain ⟨os, hos, -⟩ := Result.bind_eq_ok.mp hrest
    simp [readOperands, ho, ih (by simpa using hlen) hos]

/-- Settles O39: the operands are read before anything is expanded or encoded. -/
theorem firstUnresolvedOperandDecides : Obligations.FirstUnresolvedOperandDecides := by
  intro s mn t pre post rest c kpre kpost k ops f hready hq hc hshape hlen hok hpre hf
  rw [stepRefinesDispatchLine s _ rest hready hq, dispatchLine_of_shapeOk hc hshape hok,
    readOperands_of_err hf hlen hpre, Result.bind_err, deliver_err]

/-- Reading an operand fails with the token, as a register that is unknown or a displacement too large (R272, R274). -/
theorem readOperand_err {e : Engine} {k : OperandKind} {t : Token} {f : Failure} (h : readOperand e k t = .err f) :
    f = ⟨.unknownRegister, .token t⟩ ∨ f = ⟨.operandRangeError, .token t⟩ := by
  cases k with
  | reg => rcases resolve_cases e t with ⟨r, hr⟩ | hr | hr <;> simp_all [readOperand]
  | int => cases hi : integer? t <;> simp [readOperand, hi] at h

/-- A failure among the operands is the failure of one of them. -/
theorem readOperands_err {e : Engine} {f : Failure} : ∀ {ks : List OperandKind} {ts : List Token},
    readOperands e ks ts = .err f → ∃ k t, readOperand e k t = .err f
  | k :: ks, t :: ts, h => by
    rcases Result.bind_eq_err.mp h with hf | ⟨o, -, hrest⟩
    · exact ⟨k, t, hf⟩
    · rcases Result.bind_eq_err.mp hrest with hf | ⟨os, -, hok⟩
      · exact readOperands_err hf
      · cases hok
  | [], _, h => nomatch h
  | _ :: _, [], h => nomatch h

/-! ### A real request (R255) -/

/-- A real request of its shape, its operands read, is its one step, delivered. -/
theorem step_of_realRequest {s : State} {mn : Token} {toks : List Token} {rest : List Request} {c : Category}
    {ops : List Operand} {args : Args} (hready : s.phase = .ready) (hq : s.requests = (mn :: toks) :: rest)
    (hc : s.engine.cat.get? mn = some c) (hreal : c ≠ .P) (hok : shapeOk (formatShape c) toks = true)
    (hops : readOperands s.engine (formatShape c) toks = .ok ops) (hargs : argsOf c ops = some args) :
    step s = deliver (s.withRequests rest) ((encodeStep s.engine ⟨mn, args⟩).bind fun w => .ok [w]) := by
  rw [stepRefinesDispatchLine s _ rest hready hq, dispatchLine_of_shapeOk hc (shapeOf_real hreal mn) hok, hops,
    Result.bind_ok, stepsOf_of_args hargs, Result.bind_ok, encodeSteps_single]

/-- Settles O40: the six formats, each with its operands read in order. -/
theorem realRequestGoesToItsEncoder : Obligations.RealRequestGoesToItsEncoder := by
  intro s mn t1 t2 t3 rest a b c v hready
  refine ⟨fun hq hc hok h1 h2 h3 => ?R, fun hq hc hok h1 h2 h3 => ?I, fun hq hc hok h1 h2 h3 => ?S,
    fun hq hc hok h1 h2 h3 => ?B, fun hq hc hok h1 h2 => ?U, fun hq hc hok h1 h2 => ?J⟩
  case R =>
    exact step_of_realRequest (ops := [.reg a, .reg b, .reg c]) hready hq hc nofun hok
      (by simp [formatShape, readOperands, readOperand, h1, h2, h3]) rfl
  case I | S | B =>
    exact step_of_realRequest (ops := [.reg a, .reg b, .int v]) hready hq hc nofun hok
      (by simp [formatShape, readOperands, readOperand, h1, h2, h3]) rfl
  case U | J =>
    exact step_of_realRequest (ops := [.reg a, .int v]) hready hq hc nofun hok
      (by simp [formatShape, readOperands, readOperand, h1, h2]) rfl

end Machine

end Sys2Proof
end

section
/-! What the shape of a request decides (spec/47_pseudo.md R233; spec/48_dispatcher.md R253, R259; spec/60_exceptions.md R271).
The idea: the tokens of a shape read to operands of that shape, and such operands have one step, unless they are those of
`li`. So no stage after the shape check is malformed, the number of words is known, and what can still fail is an operand. -/

namespace Sys2Proof

open Machine

@[simp] theorem Operand.kind_eq_reg {o : Operand} : o.kind = .reg ↔ ∃ r, o = .reg r := by
  cases o <;> simp [Operand.kind]

@[simp] theorem Operand.kind_eq_int {o : Operand} : o.kind = .int ↔ ∃ v, o = .int v := by
  cases o <;> simp [Operand.kind]

namespace Machine

/-! ### Operands of a shape -/

theorem readOperand_kind {e : Engine} {k : OperandKind} {t : Token} {o : Operand} (h : readOperand e k t = .ok o) :
    o.kind = k := by
  cases k with
  | reg =>
    obtain ⟨r, -, ho⟩ := Result.bind_eq_ok.mp h
    cases ho
    rfl
  | int =>
    cases hi : integer? t with
    | none => simp [readOperand, hi] at h
    | some v =>
      obtain rfl : .int v = o := by simpa [readOperand, hi] using h
      rfl

/-- The operands read at a shape have the kinds of that shape. -/
theorem readOperands_kinds {e : Engine} {ks : List OperandKind} {ts : List Token} {ops : List Operand}
    (hlen : ks.length = ts.length) (h : readOperands e ks ts = .ok ops) : ops.map Operand.kind = ks := by
  induction ks generalizing ts ops with
  | nil => cases h; rfl
  | cons k ks ih =>
    obtain ⟨t, ts, rfl⟩ := List.exists_cons_of_length_eq_add_one hlen.symm
    obtain ⟨o, ho, hrest⟩ := Result.bind_eq_ok.mp h
    obtain ⟨os, hos, heq⟩ := Result.bind_eq_ok.mp hrest
    cases heq
    simp [readOperand_kind ho, ih (by simpa using hlen) hos]

theorem argsOf_of_kinds {c : Category} (hreal : c ≠ .P) {ops : List Operand} (h : ops.map Operand.kind = formatShape c) :
    ∃ a, argsOf c ops = some a := by
  cases c with
  | R =>
    obtain ⟨a, b, c, rfl⟩ : ∃ a b c, ops = [.reg a, .reg b, .reg c] := by
      simpa [formatShape, List.map_eq_cons_iff] using h
    exact ⟨_, rfl⟩
  | I | S | B =>
    obtain ⟨a, b, v, rfl⟩ : ∃ a b v, ops = [.reg a, .reg b, .int v] := by
      simpa [formatShape, List.map_eq_cons_iff] using h
    exact ⟨_, rfl⟩
  | U | J =>
    obtain ⟨a, v, rfl⟩ : ∃ a v, ops = [.reg a, .int v] := by simpa [formatShape, List.map_eq_cons_iff] using h
    exact ⟨_, rfl⟩
  | P => exact absurd rfl hreal

/-- Operands of the shape of `li` are a register and an integer. -/
theorem operands_of_li {ops : List Operand} (h : ops.map Operand.kind = pseudoShape .li) :
    ∃ rd imm, ops = [.reg rd, .int imm] := by
  simpa [pseudoShape, List.map_eq_cons_iff] using h

/-- A pseudo-instruction other than `li` expands to one step on operands of its shape (R222 to R231). -/
theorem expandOp_single (p : Params) {k : PseudoOp} (hli : k ≠ .li) {ops : List Operand}
    (h : ops.map Operand.kind = pseudoShape k) : ∃ st, expandOp p k ops = .ok [st] := by
  cases k with
  | li => exact absurd rfl hli
  | la | jlink =>
    obtain ⟨rd, off, rfl⟩ : ∃ rd off, ops = [.reg rd, .int off] := by simpa [pseudoShape, List.map_eq_cons_iff] using h
    exact ⟨_, rfl⟩
  | mv | not | neg =>
    obtain ⟨rd, rs, rfl⟩ : ∃ rd rs, ops = [.reg rd, .reg rs] := by simpa [pseudoShape, List.map_eq_cons_iff] using h
    exact ⟨_, rfl⟩
  | nop | ret =>
    obtain rfl : ops = [] := by simpa [pseudoShape] using h
    exact ⟨_, rfl⟩
  | j =>
    obtain ⟨off, rfl⟩ : ∃ off, ops = [.int off] := by simpa [pseudoShape, List.map_eq_cons_iff] using h
    exact ⟨_, rfl⟩
  | bgt | ble =>
    obtain ⟨rs, rt, off, rfl⟩ : ∃ rs rt off, ops = [.reg rs, .reg rt, .int off] := by
      simpa [pseudoShape, List.map_eq_cons_iff] using h
    exact ⟨_, rfl⟩

/-- The steps of operands of a mnemonic's shape: one step, or what `li` expands to (R233, R255). -/
theorem stepsOf_cases {p : Params} {c : Category} {mn : Token} {ops : List Operand}
    (h : shapeOf p c mn = some (ops.map Operand.kind)) :
    ((c = .P → (pseudoSpellings p).get? mn ≠ some .li) ∧ ∃ st, stepsOf p c mn ops = .ok [st]) ∨
      ((pseudoSpellings p).get? mn = some .li ∧
        ∃ rd imm, ops = [.reg rd, .int imm] ∧ stepsOf p c mn ops = expandLi p rd imm) := by
  rcases eq_or_ne c .P with rfl | hreal
  · obtain ⟨k, hk, hshape⟩ := Option.map_eq_some_iff.mp h
    rw [stepsOf_of_pseudo hk, hk]
    rcases eq_or_ne k .li with rfl | hli
    · obtain ⟨rd, imm, rfl⟩ := operands_of_li hshape.symm
      exact .inr ⟨rfl, rd, imm, rfl, rfl⟩
    · exact .inl ⟨fun _ => by simpa using hli, expandOp_single p hli hshape.symm⟩
  · rw [shapeOf_real hreal, Option.some.injEq] at h
    obtain ⟨a, ha⟩ := argsOf_of_kinds hreal h.symm
    exact .inl ⟨fun hP => absurd hP hreal, _, stepsOf_of_args ha⟩

/-! ### Which requests are malformed (R253) -/

theorem dispatchLine_ne_malformed {e : Engine} {mn : Token} {c : Category} {shape : List OperandKind}
    {toks : List Token} (hc : e.cat.get? mn = some c) (hshape : shapeOf e.params c mn = some shape)
    (hok : shapeOk shape toks = true) : dispatchLine e (mn :: toks) ≠ .malformed := by
  rw [dispatchLine_of_shapeOk hc hshape hok]
  intro h
  rcases Result.bind_eq_malformed.mp h with hread | ⟨ops, hops, hwords⟩
  · exact readOperands_ne_malformed hok hread
  · have hkinds := readOperands_kinds (shapeOk_length hok) hops
    rcases Result.bind_eq_malformed.mp hwords with hsteps | ⟨sts, -, hencode⟩
    · rcases stepsOf_cases (hkinds ▸ hshape) with ⟨-, st, hst⟩ | ⟨-, rd, imm, -, hli⟩
      · rw [hst] at hsteps
        cases hsteps
      · exact instrSteps_ne_malformed e.params (.li rd imm) (hli.symm.trans hsteps)
    · exact encodeSteps_ne_malformed e sts hencode

/-- Settles O38: no stage after the shape check is malformed. -/
theorem malformedExactlyWhenShapeFails : Obligations.MalformedExactlyWhenShapeFails := by
  intro s mn toks rest c hready hq hc
  refine ⟨fun hstep shape hshape => ?_, fun hshapes => ?_⟩
  · rw [stepRefinesDispatchLine s _ rest hready hq] at hstep
    refine Bool.eq_false_iff.mpr fun hok => dispatchLine_ne_malformed hc hshape hok ?_
    rcases deliver_cases (s.withRequests rest) (dispatchLine s.engine (mn :: toks)) with
      ⟨_, -, h⟩ | ⟨_, -, h⟩ | ⟨hmal, -⟩
    · cases h.symm.trans hstep
    · cases h.symm.trans hstep
    · exact hmal
  · exact step_refuses_malformed hready hq (decodeRequest_malformed hc hshapes)

/-! ### The number of words (R259) -/

theorem eq_li_of_spelling {p : Params} {mn : Token} (h : (pseudoSpellings p).get? mn = some .li) : mn = "li" := by
  simpa [pseudoSpellings] using Table.mem_of_get? h

theorem lineWordCount_of_ne_li {p : Params} {mn : Token} (h : (pseudoSpellings p).get? mn ≠ some .li)
    (toks : List Token) : lineWordCount p (mn :: toks) = 1 := by
  unfold lineWordCount
  split <;> simp_all

/-- The operands of `li` come from two tokens, the second an integer token of the immediate. -/
theorem tokens_of_li {e : Engine} {toks : List Token} {rd : Resolved} {imm : Int}
    (hok : shapeOk [.reg, .int] toks = true) (h : readOperands e [.reg, .int] toks = .ok [.reg rd, .int imm]) :
    ∃ t v, toks = [t, v] ∧ integer? v = some imm := by
  obtain ⟨t, v, rfl⟩ : ∃ t v, toks = [t, v] := List.length_eq_two.mp (shapeOk_length hok).symm
  refine ⟨t, v, rfl, ?_⟩
  cases hv : integer? v with
  | none => cases ht : resolve e t <;> simp [readOperands, readOperand, hv, ht] at h
  | some w => cases ht : resolve e t <;> simp_all [readOperands, readOperand]

/-- Settles O43: one word for one step, and `li` has the steps its immediate token says. -/
theorem wordCountIsKnownFromTheRequest : Obligations.WordCountIsKnownFromTheRequest := by
  intro e q ws hcat hwords
  cases q with
  | nil => cases hwords; rfl
  | cons mn toks =>
    rcases dispatchLine_cases e mn toks with ⟨-, h⟩ | h | ⟨c, shape, hc, hshape, hok, h⟩ <;> rw [h] at hwords
    · cases hwords
    · cases hwords
    obtain ⟨ops, hops, hsteps⟩ := Result.bind_eq_ok.mp hwords
    obtain ⟨sts, hsts, hencode⟩ := Result.bind_eq_ok.mp hsteps
    have hkinds := readOperands_kinds (shapeOk_length hok) hops
    rw [encodeSteps_length hencode]
    rcases stepsOf_cases (hkinds ▸ hshape) with ⟨hne, st, hst⟩ | ⟨hspell, rd, imm, rfl, hli⟩
    · obtain rfl := Result.ok.inj (hst.symm.trans hsts)
      refine (lineWordCount_of_ne_li (fun hspell => hne ?_ hspell) toks).symm
      obtain rfl := eq_li_of_spelling hspell
      exact Option.some.inj (hc.symm.trans hcat)
    · subst hkinds
      obtain ⟨t, v, rfl, hv⟩ := tokens_of_li hok hops
      simp [expandLi_length (hli.symm.trans hsts), lineWordCount, hspell, hv]

/-! ### `UnknownMnemonic` under a well-formed configuration (R271) -/

/-- A failure of an operation that a test decides is `OperandRangeError`. -/
theorem kind_of_answersWhen {α : Type} {ok : Bool} {r : Result α} {f : Failure} (h : r.AnswersWhen ok)
    (hf : r = .err f) : f.kind = .operandRangeError := by
  cases ok with
  | true =>
    obtain ⟨a, ha⟩ := h.1 rfl
    cases ha.symm.trans hf
  | false =>
    obtain ⟨v, hv⟩ := h.2 rfl
    cases hv.symm.trans hf
    rfl

theorem rowHeld_of_routed {e : Engine} (hwf : engineWf e = true) {st : RealStep} (h : Routed e st) : RowHeld e st := by
  obtain ⟨-, -, -, hfits, -⟩ := engineWf_iff.mp hwf
  obtain ⟨fs, hfs, -⟩ := rowFits_real (argsFormat_ne_pseudo _) (hfits _ (Table.mem_of_get? h))
  exact ⟨fs, h, hfs⟩

/-- The steps of a classified request are routed over a well-formed engine (R34, R232, R255). -/
theorem stepsOf_satisfies {e : Engine} (hwf : engineWf e = true) {mn : Token} {c : Category}
    (hc : e.cat.get? mn = some c) (ops : List Operand) :
    (stepsOf e.params c mn ops).Satisfies (RoutedSteps e) Reportable := by
  rcases eq_or_ne c .P with rfl | hreal
  · cases hk : (pseudoSpellings e.params).get? mn with
    | none => simp [stepsOf, expand, hk]
    | some k =>
      rw [stepsOf_of_pseudo hk, expandOp_eq_decodedPseudo]
      exact (decodedPseudo_satisfies hwf k ops).bind fun _ h => h
  · rw [stepsOf_eq_decodedReal hreal]
    exact (decodedReal_satisfies hc ops).bind fun _ h => h

theorem expandLi_err {p : Params} {rd : Resolved} {imm : Int} {f : Failure} (h : expandLi p rd imm = .err f) :
    f.kind = .operandRangeError := by
  rcases expandLi_cases p rd imm with ⟨-, he⟩ | ⟨-, -, he⟩ | ⟨-, -, he⟩ <;> cases he.symm.trans h
  rfl

/-- A classified request of its shape fails, under a well-formed configuration, over an operand only. -/
theorem kind_of_classified {e : Engine} (hwf : engineWf e = true) {mn : Token} {c : Category} {shape : List OperandKind}
    {toks : List Token} {f : Failure} (hc : e.cat.get? mn = some c) (hshape : shapeOf e.params c mn = some shape)
    (hok : shapeOk shape toks = true)
    (hfail : ((readOperands e shape toks).bind fun ops => (stepsOf e.params c mn ops).bind (encodeSteps e)) = .err f) :
    f.kind = .unknownRegister ∨ f.kind = .operandRangeError := by
  rcases Result.bind_eq_err.mp hfail with hread | ⟨ops, hops, hrest⟩
  · obtain ⟨k, t, hf⟩ := readOperands_err hread
    rcases readOperand_err hf with rfl | rfl
    · exact .inl rfl
    · exact .inr rfl
  · have hkinds := readOperands_kinds (shapeOk_length hok) hops
    refine .inr ?_
    rcases Result.bind_eq_err.mp hrest with hexpand | ⟨sts, hsts, hencode⟩
    · rcases stepsOf_cases (hkinds ▸ hshape) with ⟨-, st, hst⟩ | ⟨-, rd, imm, -, hli⟩
      · cases hst.symm.trans hexpand
      · exact expandLi_err (hli.symm.trans hexpand)
    · have hrouted := stepsOf_satisfies hwf hc ops
      rw [hsts] at hrouted
      obtain ⟨-, hall⟩ := hrouted
      exact kind_of_answersWhen (encodeSteps_answersWhen fun st hst => rowHeld_of_routed hwf (hall st hst)) hencode

/-- Settles O42: past the classification a failure is over an operand, and so of another kind. -/
theorem unknownMnemonicOnlyOutsideCat : Obligations.UnknownMnemonicOnlyOutsideCat := by
  intro e q f hwf hfail
  cases q with
  | nil => cases hfail
  | cons mn toks =>
    rcases dispatchLine_cases e mn toks with ⟨hnone, h⟩ | h | ⟨c, shape, hc, hshape, hok, h⟩ <;> rw [h] at hfail
    · cases hfail
      exact ⟨⟨fun _ => ⟨mn, toks, rfl, hnone⟩, fun _ => rfl⟩, fun _ => ⟨mn, toks, rfl, rfl⟩⟩
    · cases hfail
    · have hkind : f.kind ≠ .unknownMnemonic := by
        rcases kind_of_classified hwf hc hshape hok hfail with hk | hk <;> simp [hk]
      refine ⟨⟨fun hk => absurd hk hkind, ?_⟩, fun hk => absurd hk hkind⟩
      rintro ⟨mn', toks', hq, hnone⟩
      obtain ⟨rfl, -⟩ := List.cons.inj hq
      cases hc.symm.trans hnone

end Machine

end Sys2Proof
end
